-- ==== Sys2Proof/Word.lean ====
section
/-! DEFINITION. The words of the block: a stored byte, the 16-bit argument of a command, the 32-bit words (00_scope.md R8). -/

namespace Sys2Proof

/-- `u8` (R8): a stored byte, an opcode, a selector. -/
abbrev Byte := BitVec 8

/-- `u16` (R8): a command argument, a SETUP field, a serial-state bitmap. -/
abbrev Half := BitVec 16

/-- `u32` (R8): a baud rate, a millisecond time, the endpoint status view. -/
abbrev Word := BitVec 32

end Sys2Proof
end

