-- ==== Sys2Proof/Config.lean ====
section
/-! DEFINITION. The implementation parameters of 00_scope.md R7: a value where R7 gives one, a constant with no body where
R7 says OPEN or where a rule says "draw". -/

namespace Sys2Proof

/-! ## Parameters to which R7 gives a value (log 11) -/

/-- `RB_CAP_TX`. -/
def Config.rbCapTx : Nat := 1024
/-- `RB0_CAP`, by default `RB_CAP_TX`. -/
def Config.rb0Cap : Nat := 1024
/-- `RB_CAP_RX`. -/
def Config.rbCapRx : Nat := 1024
/-- `MPS_BULK`. -/
def Config.mpsBulk : Nat := 64
/-- `MPS0`. -/
def Config.mps0 : Nat := 64
/-- `MPS_INT`. -/
def Config.mpsInt : Nat := 16
/-- `NUM_EP`: endpoint numbers are `0 .. NUM_EP-1`. -/
abbrev Config.numEp : Nat := 8
/-- `BUF_BULK_OUT`. -/
def Config.bufBulkOut : Nat := 128
/-- `BUF_BULK_IN`. -/
def Config.bufBulkIn : Nat := 128
/-- `BUF_INT_IN`. -/
def Config.bufIntIn : Nat := 16
/-- `PMA_BYTES`. -/
def Config.pmaBytes : Nat := 512
/-- `CTRL_BUF_CAP`. -/
def Config.ctrlBufCap : Nat := 256
/-- `FILTER_CAP`. -/
def Config.filterCap : Nat := 4
/-- `ALLOW_9N` (90_conflicts.md C2). -/
def Config.allow9N : Bool := false
/-- `COMM_IF`. -/
def Config.commIf : Half := 0
/-- `NUM_IF`. -/
def Config.numIf : Nat := 2

/-- Direction of an endpoint, seen from the host (R13): OUT is host-to-device, IN device-to-host. -/
inductive Dir where
  | OUT
  | IN
deriving DecidableEq, Repr

/-- A legal endpoint address (30_encoding.md R85): a direction and a number below `NUM_EP`. -/
structure EpAddr where
  dir : Dir
  num : Fin Config.numEp
deriving DecidableEq, Repr

/-- `EP_BULK_OUT`, 0x01. -/
def Config.epBulkOut : EpAddr := ⟨.OUT, 1⟩
/-- `EP_BULK_IN`, 0x82. -/
def Config.epBulkIn : EpAddr := ⟨.IN, 2⟩
/-- `EP_INT_IN`, 0x83. -/
def Config.epIntIn : EpAddr := ⟨.IN, 3⟩
/-- Endpoint 0 IN, 0x80, under which `host_in` records control packets (R229). -/
def Config.ep0In : EpAddr := ⟨.IN, 0⟩

/-! ## OPEN parameters (log 9): free values, kept inside the constraint R7 states

Each `…Free` constant has no body. A parameter with a constraint is that constant clamped into the constraint, so it takes
every value R7 admits and no other. -/

/-- Free value behind `BAUD_MIN`. -/
opaque Config.baudMinFree : Word
/-- Free value behind `BAUD_MAX`. -/
opaque Config.baudMaxFree : Word
/-- Free value behind `effective_baud`. -/
opaque Config.effectiveBaudFree : Word → Word
/-- Free value behind `CHUNK_DIV`. -/
opaque Config.chunkDivFree : Nat
/-- Free value behind `CHUNK_MIN`. -/
opaque Config.chunkMinFree : Nat
/-- Free value behind `CHUNK_MAX`. -/
opaque Config.chunkMaxFree : Nat
/-- Free value behind `MIN_BATCH`. -/
opaque Config.minBatchFree : Nat
/-- `MAX_AGE` in milliseconds; any natural number. -/
opaque Config.maxAge : Nat
/-- Free value behind the `Descriptors` oracle (43_control_transfer.md R249). -/
opaque Config.descriptorsFree : Byte → Byte → Half → Option (List Byte)

/-- `BAUD_MIN`, at least 1. -/
def Config.baudMin : Nat := max 1 Config.baudMinFree.toNat
/-- `BAUD_MAX`, at least `BAUD_MIN`. -/
def Config.baudMax : Nat := max Config.baudMin Config.baudMaxFree.toNat
/-- `effective_baud`: any function with results in `[BAUD_MIN, BAUD_MAX]` (10_state.md R27, 41_uart_engine.md R136). -/
def Config.effectiveBaud (baud : Word) : Word :=
  BitVec.ofNat 32 (min (max (Config.effectiveBaudFree baud).toNat Config.baudMin) Config.baudMax)
/-- `CHUNK_DIV`; a divisor, taken as at least 1 (DEDUCED, log 10). -/
def Config.chunkDiv : Nat := max 1 Config.chunkDivFree
/-- `CHUNK_MIN`, at least 1. -/
def Config.chunkMin : Nat := max 1 Config.chunkMinFree
/-- `CHUNK_MAX`, at least `CHUNK_MIN`. -/
def Config.chunkMax : Nat := max Config.chunkMin Config.chunkMaxFree
/-- `MIN_BATCH`, from 1 to `MPS_BULK`. -/
def Config.minBatch : Nat := min (max 1 Config.minBatchFree) Config.mpsBulk
/-- The `Descriptors` oracle (R249): the same answer for the same arguments, at most 65535 bytes. -/
def Config.descriptors (type index : Byte) (langid : Half) : Option (List Byte) :=
  (Config.descriptorsFree type index langid).map (List.take 65535)

/-! ## Draws -/

/-- The draw of 41_uart_engine.md R137 and 70_reset_and_hazards.md R352, before it is brought into `0 .. tx_chunk`; its
argument counts the draws made so far (log 7). -/
opaque Config.abortDraw : Nat → Nat
/-- The DSR wire level at power-on (10_state.md R32, a draw; log 8). -/
opaque Config.resetDsrW : Bool
/-- The DCD wire level at power-on (R32, a draw; log 8). -/
opaque Config.resetDcdW : Bool
/-- The CTS wire level at power-on (R32, a draw; log 8). -/
opaque Config.resetCtsW : Bool

end Sys2Proof
end

