-- ==== Sys2Proof/Syntax.lean ====
section
/-! DEFINITION. The operations of the block: one constructor for each row of spec/opcode_table.json (30_encoding.md R82). -/

namespace Sys2Proof

/-- A decoded operation. Operands are the raw fields of the command word (R80): a selector stays a byte and an argument
with reserved bits stays 16 bits, because R83 refuses an illegal operand as an outcome of the operation. -/
inductive Instr where
  /-- 0x01 RB_CLEAR (R115). -/
  | rbClear (ring : Byte)
  /-- 0x02 RB_ENQUEUE (R113). -/
  | rbEnqueue (ring : Byte) (data : List Byte)
  /-- 0x03 RB_DEQUEUE (R114). -/
  | rbDequeue (ring : Byte) (limit : Half)
  /-- 0x04 RB_AVAILABLE_SPACE (R112). -/
  | rbAvailableSpace (ring : Byte)
  /-- 0x05 RB_OCCUPIED_LEN (R111). -/
  | rbOccupiedLen (ring : Byte)
  /-- 0x06 RB_CONTIG_LEN (R119). -/
  | rbContigLen (ring : Byte)
  /-- 0x10 UART_CONFIGURE (R136); the payload is the 7-byte line coding of R92. -/
  | uartConfigure (coding : List Byte)
  /-- 0x11 UART_ENABLE (R137). -/
  | uartEnable
  /-- 0x12 UART_TRANSMIT (R138). -/
  | uartTransmit (data : List Byte)
  /-- 0x13 UART_POLL (R140). -/
  | uartPoll
  /-- 0x14 UART_COPY_RX (R144). -/
  | uartCopyRx (limit : Half)
  /-- 0x15 UART_HAS_OVERRUN (R145). -/
  | uartHasOverrun
  /-- 0x16 UART_GET_DSR (R146). -/
  | uartGetDsr
  /-- 0x17 UART_GET_DCD (R146). -/
  | uartGetDcd
  /-- 0x18 UART_SET_DTR (R148); bit 0 is the level, bits 15:1 are reserved. -/
  | uartSetDtr (arg : Half)
  /-- 0x19 UART_TX_SPACE (R149). -/
  | uartTxSpace
  /-- 0x1A UART_RX_LEN (R150). -/
  | uartRxLen
  /-- 0x1B UART_GET_CODING (R151). -/
  | uartGetCoding
  /-- 0x20 EV_UART_TX_DMA_DONE (R141). -/
  | evUartTxDmaDone
  /-- 0x21 EV_UART_RX_BYTE (R143); bits 7:0 are the byte, bits 15:8 are reserved. -/
  | evUartRxByte (arg : Half)
  /-- 0x22 EV_UART_PARITY_ERROR (R155). -/
  | evUartParityError
  /-- 0x23 EV_PIN_LEVELS (R147); bits 0, 1, 2 are dsr_w, dcd_w, cts_w, bits 15:3 are reserved. -/
  | evPinLevels (arg : Half)
  /-- 0x30 EP_SETUP (R171, R84). -/
  | epSetup (addr : Byte) (size : BitVec 14) (type : BitVec 2)
  /-- 0x31 EP_TRANSMIT_PACKET (R174). -/
  | epTransmitPacket (addr : Byte) (data : List Byte)
  /-- 0x32 EP_WRITE_AVAIL (R175). -/
  | epWriteAvail (addr : Byte)
  /-- 0x33 EP_READ_PACKET (R179). -/
  | epReadPacket (addr : Byte) (limit : Half)
  /-- 0x34 EP_PAUSE (R182). -/
  | epPause (addr : Byte)
  /-- 0x35 EP_UNPAUSE (R183). -/
  | epUnpause (addr : Byte)
  /-- 0x36 EP_SET_HALT (R188). -/
  | epSetHalt (addr : Byte)
  /-- 0x37 EP_CLEAR_HALT (R189). -/
  | epClearHalt (addr : Byte)
  /-- 0x38 EV_BUS_RESET (R352). -/
  | evBusReset
  /-- 0x39 EV_EP_IN_DONE (R178). -/
  | evEpInDone (addr : Byte)
  /-- 0x3A EV_EP_OUT (R181). -/
  | evEpOut (addr : Byte) (data : List Byte)
  /-- 0x3B EP_DECONFIGURE_ALL (R194). -/
  | epDeconfigureAll
  /-- 0x3C EP_READ_STATUS (R193). -/
  | epReadStatus (sel : Byte)
  /-- 0x3D EV_USB_IRQ (R198). -/
  | evUsbIrq (addr : Byte)
  /-- 0x40 EV_SETUP (R221); the payload is the 8-byte SETUP packet of R88. -/
  | evSetup (packet : List Byte)
  /-- 0x41 EV_CTRL_OUT (R230). -/
  | evCtrlOut (data : List Byte)
  /-- 0x42 EV_CTRL_IN_DONE (R229). -/
  | evCtrlInDone
  /-- 0x43 CTRL_REGISTER_FILTER (R238). -/
  | ctrlRegisterFilter (handler value mask : Byte)
  /-- 0x44 CTRL_READ_STATE (R239). -/
  | ctrlReadState
  /-- 0x50 BRIDGE_POLL (R289); the payload is `now`. -/
  | bridgePoll (now : Word)
  /-- 0x51 BRIDGE_INIT (R280). -/
  | bridgeInit
deriving DecidableEq, Repr

end Sys2Proof
end

