-- ==== Sys2Proof/WellFormed.lean ====
section
/-! DEFINITION. Which operations a command word and its payload can carry (30_encoding.md R80, R81). The operand checks of
R83 are no part of this: an operation they forbid is encodable, and is refused when it is executed. -/

namespace Sys2Proof

/-- The payload length that R81 fixes: `n` bytes for a 16-bit `n`, 7 bytes of line coding, 8 bytes of SETUP. -/
def Instr.wf : Instr → Bool
  | .rbEnqueue _ data => data.length < 65536
  | .uartTransmit data => data.length < 65536
  | .epTransmitPacket _ data => data.length < 65536
  | .evEpOut _ data => data.length < 65536
  | .evCtrlOut data => data.length < 65536
  | .uartConfigure coding => coding.length = 7
  | .evSetup packet => packet.length = 8
  | .rbClear _ => true
  | .rbDequeue _ _ => true
  | .rbAvailableSpace _ => true
  | .rbOccupiedLen _ => true
  | .rbContigLen _ => true
  | .uartEnable => true
  | .uartPoll => true
  | .uartCopyRx _ => true
  | .uartHasOverrun => true
  | .uartGetDsr => true
  | .uartGetDcd => true
  | .uartSetDtr _ => true
  | .uartTxSpace => true
  | .uartRxLen => true
  | .uartGetCoding => true
  | .evUartTxDmaDone => true
  | .evUartRxByte _ => true
  | .evUartParityError => true
  | .evPinLevels _ => true
  | .epSetup _ _ _ => true
  | .epWriteAvail _ => true
  | .epReadPacket _ _ => true
  | .epPause _ => true
  | .epUnpause _ => true
  | .epSetHalt _ => true
  | .epClearHalt _ => true
  | .evBusReset => true
  | .evEpInDone _ => true
  | .epDeconfigureAll => true
  | .epReadStatus _ => true
  | .evUsbIrq _ => true
  | .evCtrlInDone => true
  | .ctrlRegisterFilter _ _ _ => true
  | .ctrlReadState => true
  | .bridgePoll _ => true
  | .bridgeInit => true

end Sys2Proof
end

