-- ==== Sys2Proof/Decode.lean ====
section
/-! DEFINITION. Reading a command and its payload from bytes, and writing them (30_encoding.md R80, R81, R82). -/

namespace Sys2Proof

/-! ## Byte order (00_scope.md R9, 20_memory.md R61: little-endian) -/

/-- `le16(s, i)`; a byte past the end of `s` reads 0 (log 26). -/
def le16 (s : List Byte) (i : Nat) : Half := s.getD (i + 1) 0 ++ s.getD i 0

/-- `le32(s, i)`. -/
def le32 (s : List Byte) (i : Nat) : Word := le16 s (i + 2) ++ le16 s i

/-- The two bytes of a 16-bit field, low byte first. -/
def bytes16 (h : Half) : List Byte := [h.extractLsb' 0 8, h.extractLsb' 8 8]

/-- The four bytes of a 32-bit field, low byte first. -/
def bytes32 (w : Word) : List Byte :=
  [w.extractLsb' 0 8, w.extractLsb' 8 8, w.extractLsb' 16 8, w.extractLsb' 24 8]

/-! ## Reading -/

/-- The payload length an opcode and its argument fix (R81). -/
def payloadLen (op : Byte) (arg : Nat) : Nat :=
  match op with
  | 0x02#8 | 0x12#8 | 0x31#8 | 0x3A#8 | 0x41#8 => arg
  | 0x10#8 => 7
  | 0x40#8 => 8
  | 0x50#8 => 4
  | _ => 0

/-- The operation with opcode `op` (R82); none where R82 has no such opcode. A field R82 gives as 0 is not read (log 6). -/
def decodeFields (op sel : Byte) (arg : Half) (payload : List Byte) : Option Instr :=
  match op with
  | 0x01#8 => some (.rbClear sel)
  | 0x02#8 => some (.rbEnqueue sel payload)
  | 0x03#8 => some (.rbDequeue sel arg)
  | 0x04#8 => some (.rbAvailableSpace sel)
  | 0x05#8 => some (.rbOccupiedLen sel)
  | 0x06#8 => some (.rbContigLen sel)
  | 0x10#8 => some (.uartConfigure payload)
  | 0x11#8 => some .uartEnable
  | 0x12#8 => some (.uartTransmit payload)
  | 0x13#8 => some .uartPoll
  | 0x14#8 => some (.uartCopyRx arg)
  | 0x15#8 => some .uartHasOverrun
  | 0x16#8 => some .uartGetDsr
  | 0x17#8 => some .uartGetDcd
  | 0x18#8 => some (.uartSetDtr arg)
  | 0x19#8 => some .uartTxSpace
  | 0x1A#8 => some .uartRxLen
  | 0x1B#8 => some .uartGetCoding
  | 0x20#8 => some .evUartTxDmaDone
  | 0x21#8 => some (.evUartRxByte arg)
  | 0x22#8 => some .evUartParityError
  | 0x23#8 => some (.evPinLevels arg)
  | 0x30#8 => some (.epSetup sel (arg.extractLsb' 0 14) (arg.extractLsb' 14 2))
  | 0x31#8 => some (.epTransmitPacket sel payload)
  | 0x32#8 => some (.epWriteAvail sel)
  | 0x33#8 => some (.epReadPacket sel arg)
  | 0x34#8 => some (.epPause sel)
  | 0x35#8 => some (.epUnpause sel)
  | 0x36#8 => some (.epSetHalt sel)
  | 0x37#8 => some (.epClearHalt sel)
  | 0x38#8 => some .evBusReset
  | 0x39#8 => some (.evEpInDone sel)
  | 0x3A#8 => some (.evEpOut sel payload)
  | 0x3B#8 => some .epDeconfigureAll
  | 0x3C#8 => some (.epReadStatus sel)
  | 0x3D#8 => some (.evUsbIrq sel)
  | 0x40#8 => some (.evSetup payload)
  | 0x41#8 => some (.evCtrlOut payload)
  | 0x42#8 => some .evCtrlInDone
  | 0x43#8 => some (.ctrlRegisterFilter sel (arg.extractLsb' 0 8) (arg.extractLsb' 8 8))
  | 0x44#8 => some .ctrlReadState
  | 0x50#8 => some (.bridgePoll (le32 payload 0))
  | 0x51#8 => some .bridgeInit
  | _ => none

/-- What the decoder reads from the bytes issued so far. -/
inductive Decoded where
  /-- A whole operation, and the bytes after it. -/
  | instr (i : Instr) (rest : List Byte)
  /-- A whole command word whose opcode R82 does not have, and the bytes after it. -/
  | unknownOpcode (op : Byte) (rest : List Byte)
  /-- Fewer bytes than the command word and its payload take. -/
  | incomplete
  /-- No byte at all. -/
  | nothing
deriving DecidableEq, Repr

/-- Read one command: `op`, `sel`, `arg` little-endian, then the payload (R80, R81). Total on any bytes. -/
def decode : List Byte → Decoded
  | [] => .nothing
  | op :: sel :: lo :: hi :: rest =>
    let arg : Half := hi ++ lo
    let n := payloadLen op arg.toNat
    if n ≤ rest.length then
      match decodeFields op sel arg (rest.take n) with
      | some i => .instr i (rest.drop n)
      | none => .unknownOpcode op (rest.drop n)
    else .incomplete
  | _ :: _ => .incomplete

/-! ## Writing -/

/-- A command word (R80) and its payload. -/
def command (op sel : Byte) (arg : Half) (payload : List Byte) : List Byte :=
  op :: sel :: (bytes16 arg ++ payload)

/-- The bytes of an operation, from the map of R82; a field R82 gives as 0 is written 0. -/
def encode : Instr → List Byte
  | .rbClear ring => command 0x01 ring 0 []
  | .rbEnqueue ring data => command 0x02 ring (BitVec.ofNat 16 data.length) data
  | .rbDequeue ring limit => command 0x03 ring limit []
  | .rbAvailableSpace ring => command 0x04 ring 0 []
  | .rbOccupiedLen ring => command 0x05 ring 0 []
  | .rbContigLen ring => command 0x06 ring 0 []
  | .uartConfigure coding => command 0x10 0 0 coding
  | .uartEnable => command 0x11 0 0 []
  | .uartTransmit data => command 0x12 0 (BitVec.ofNat 16 data.length) data
  | .uartPoll => command 0x13 0 0 []
  | .uartCopyRx limit => command 0x14 0 limit []
  | .uartHasOverrun => command 0x15 0 0 []
  | .uartGetDsr => command 0x16 0 0 []
  | .uartGetDcd => command 0x17 0 0 []
  | .uartSetDtr arg => command 0x18 0 arg []
  | .uartTxSpace => command 0x19 0 0 []
  | .uartRxLen => command 0x1A 0 0 []
  | .uartGetCoding => command 0x1B 0 0 []
  | .evUartTxDmaDone => command 0x20 0 0 []
  | .evUartRxByte arg => command 0x21 0 arg []
  | .evUartParityError => command 0x22 0 0 []
  | .evPinLevels arg => command 0x23 0 arg []
  | .epSetup addr size type => command 0x30 addr (type ++ size) []
  | .epTransmitPacket addr data => command 0x31 addr (BitVec.ofNat 16 data.length) data
  | .epWriteAvail addr => command 0x32 addr 0 []
  | .epReadPacket addr limit => command 0x33 addr limit []
  | .epPause addr => command 0x34 addr 0 []
  | .epUnpause addr => command 0x35 addr 0 []
  | .epSetHalt addr => command 0x36 addr 0 []
  | .epClearHalt addr => command 0x37 addr 0 []
  | .evBusReset => command 0x38 0 0 []
  | .evEpInDone addr => command 0x39 addr 0 []
  | .evEpOut addr data => command 0x3A addr (BitVec.ofNat 16 data.length) data
  | .epDeconfigureAll => command 0x3B 0 0 []
  | .epReadStatus sel => command 0x3C sel 0 []
  | .evUsbIrq addr => command 0x3D addr 0 []
  | .evSetup packet => command 0x40 0 0 packet
  | .evCtrlOut data => command 0x41 0 (BitVec.ofNat 16 data.length) data
  | .evCtrlInDone => command 0x42 0 0 []
  | .ctrlRegisterFilter handler value mask => command 0x43 handler (mask ++ value) []
  | .ctrlReadState => command 0x44 0 0 []
  | .bridgePoll now => command 0x50 0 0 (bytes32 now)
  | .bridgeInit => command 0x51 0 0 []

/-! ## The opcode table's numbering of bits -/

/-- The low `n` bytes of a number, least significant first. -/
def wordBytes : Nat → Nat → List Byte
  | 0, _ => []
  | n + 1, w => BitVec.ofNat 8 w :: wordBytes n (w / 256)

/-- The bytes of the instruction whose first `nbits` bits are `w`: whole bytes, at least the command word, then zeros up to
the payload length that the word fixes. -/
def tableBytes (nbits w : Nat) : List Byte :=
  let known := wordBytes (max 4 ((nbits + 7) / 8)) (w % 2 ^ nbits)
  let need := 4 + payloadLen (BitVec.ofNat 8 w) (w % 2 ^ nbits / 65536 % 65536)
  known ++ List.replicate (need - known.length) 0

/-- The operation the decoder reads from an instruction whose bits are `w`, numbered as spec/opcode_table.json numbers them. -/
def decodeTableWord (nbits w : Nat) : Option Instr :=
  match decode (tableBytes nbits w) with
  | .instr i _ => some i
  | _ => none

end Sys2Proof
end

