-- ==== Sys2Proof/Machine/State.lean ====
section
/-! DEFINITION. The architectural state of the block (10_state.md), as plain data, its reset value (70_reset_and_hazards.md
R350, R351), and the reasons a step can stop. -/

namespace Sys2Proof.Machine

/-! ## Storage -/

/-- A storage space (20_memory.md R60): its listed bytes, addresses strictly rising; a byte that is not listed reads
`unlisted`, and no listed byte equals it. -/
abbrev Memory := List Host.Cell

/-- What a byte no rule has written reads as. The spec leaves storage unspecified at reset (70_reset_and_hazards.md R350):
DESIGN CHOICE 0, unsafe (log 12). -/
def unlisted : Byte := 0

/-- The storage spaces that operations reach (R60); the standalone ring's storage is one of its own (10_state.md R54). -/
inductive Space where
  | rb0
  | txrb
  | rxrb
  | pma
  | cbuf
deriving DecidableEq, Repr

/-! ## Rings and the RX window -/

/-- A ring buffer (10_state.md R21, R54). -/
structure Ring where
  cap : Nat
  storage : Memory
  head : Nat
  tail : Nat
deriving DecidableEq, Repr

/-- The RX window (10_state.md R23). -/
structure RxWindow where
  cap : Nat
  storage : Memory
  dmaRem : Nat
  tail : Nat
  lastLen : Nat
  armed : Bool
deriving DecidableEq, Repr

/-! ## UART engine and pins -/

/-- Data bits of a line coding (10_state.md R25). -/
inductive DataBits where
  | seven
  | eight
  | nine
deriving DecidableEq, Repr

/-- Stop bits of a line coding (R25): 1, 1.5 or 2. -/
inductive StopBits where
  | one
  | onePointFive
  | two
deriving DecidableEq, Repr

/-- Parity of a line coding (R25). -/
inductive Parity where
  | none
  | odd
  | even
deriving DecidableEq, Repr

/-- A line coding (R25). -/
structure LineCoding where
  baud : Word
  dataBits : DataBits
  stopBits : StopBits
  parity : Parity
deriving DecidableEq, Repr

/-- UART engine registers and flags (10_state.md R25-R30, R55). -/
structure Uart where
  coding : LineCoding
  rxHwm : Nat
  effBaud : Word
  txBusy : Bool
  txChunk : Nat
  overrun : Bool
  parityErr : Bool
  enabled : Bool
deriving DecidableEq, Repr

/-- Signal pins: outputs as logical values (10_state.md R31), inputs as wire levels (R32). -/
structure Pins where
  dtr : Bool
  rts : Bool
  dsrW : Bool
  dcdW : Bool
  ctsW : Bool
deriving DecidableEq, Repr

/-! ## Endpoints -/

/-- Transfer type of an endpoint (10_state.md R36). -/
inductive EpType where
  | BULK
  | INTERRUPT
deriving DecidableEq, Repr

/-- State of a packet slot (R36): EMPTY or LOADED for IN; FREE, FULL or HELD for OUT. -/
inductive SlotState where
  | EMPTY
  | LOADED
  | FREE
  | FULL
  | HELD
deriving DecidableEq, Repr

/-- One packet slot: `sl[s]`, `len[s]`, `pma[s]` (R36); its bytes are in the space PMA (20_memory.md R60). -/
structure Slot where
  state : SlotState
  len : Nat
  pma : Nat
deriving DecidableEq, Repr

/-- Hardware endpoint status (10_state.md R38). -/
inductive EpStat where
  | DISABLED
  | STALL
  | NAK
  | VALID
deriving DecidableEq, Repr

/-- The completion handlers that EP_SETUP stores (44_cdc_bridge.md R286). -/
inductive EpHandler where
  | onUsbDataReceived
deriving DecidableEq, Repr

/-- Endpoint transfer state (R36). `dbl` is the spec's `K`: two slots when true, one when false. -/
structure Endpoint where
  cfg : Bool
  type : EpType
  mps : Nat
  dbl : Bool
  slot0 : Slot
  slot1 : Slot
  hwNext : Fin 2
  swNext : Fin 2
  paused : Bool
  hwstat : EpStat
  syncPending : Bool
  halt : Bool
  handler : Option EpHandler
  irq : Nat
deriving DecidableEq, Repr

/-- USB device state (10_state.md R33-R35, R39). -/
structure Usb where
  address : BitVec 7
  config : Byte
  inCallback : Option EpAddr
  pmaNext : Nat
deriving DecidableEq, Repr

/-! ## Control transfers -/

/-- States of the control transfer machine (10_state.md R44). -/
inductive CtrlState where
  | IDLE
  | STALLED
  | DATA_IN
  | LAST_DATA_IN
  | STATUS_IN
  | DATA_OUT
  | LAST_DATA_OUT
  | STATUS_OUT
deriving DecidableEq, Repr

/-- The completion actions of a control transfer (10_state.md R45). -/
inductive Action where
  | setAddress (a : BitVec 7)
deriving DecidableEq, Repr

/-- The endpoint-0 IN slot's ownership (10_state.md R46). -/
inductive In0 where
  | EMPTY
  | LOADED
deriving DecidableEq, Repr

/-- The control transfer context (10_state.md R41-R46). -/
structure Ctrl where
  setup : List Byte
  buf : Memory
  cursor : Nat
  length : Nat
  resp : List Byte
  zlp : Bool
  state : CtrlState
  onDone : Option Action
  in0 : In0
  in0Len : Nat
  in0Data : List Byte
deriving DecidableEq, Repr

/-- Handlers a control-request filter can name (43_control_transfer.md R238): id 1, the CDC class handler. -/
inductive FilterHandler where
  | cdcClass
deriving DecidableEq, Repr

/-- One entry of the control-request filter table (10_state.md R47). -/
structure Filter where
  mask : Byte
  value : Byte
  handler : FilterHandler
deriving DecidableEq, Repr

/-! ## Bridge -/

/-- USB serial bridge state (10_state.md R48-R51). -/
structure Bridge where
  lastState : Half
  pending : Half
  lastTxTime : Word
  zlpNeeded : Bool
deriving DecidableEq, Repr

/-! ## Outcomes -/

/-- Result codes (30_encoding.md R98). -/
inductive ResultCode where
  | OK
  | BUSY
  | INVALID_CODING
  | NOT_READY
deriving DecidableEq, Repr

/-- Fault codes (60_exceptions.md R328). -/
inductive FaultCode where
  | EP_NOT_CONFIGURED
  | EP0_RESERVED
  | BAD_BUFFER_SIZE
  | PMA_EXHAUSTED
  | PACKET_TOO_LONG
  | OUTSIDE_CALLBACK
  | BUFFER_TOO_SMALL
  | FILTER_TABLE_FULL
deriving DecidableEq, Repr

/-- A value an operation returns beside its result code (R98). -/
inductive Value where
  /-- No value: the operation returns its code alone. -/
  | unit
  /-- A count or length (R8: unbounded). -/
  | len (n : Nat)
  /-- A 16-bit value (40_ring_buffer.md R111). -/
  | u16 (v : Half)
  /-- A 32-bit value (42_endpoint_engine.md R193, 43_control_transfer.md R239). -/
  | u32 (v : Word)
  /-- A truth value. -/
  | flag (b : Bool)
  /-- A byte sequence. -/
  | bytes (bs : List Byte)
deriving DecidableEq, Repr

/-- What the last step came to, the five outcomes of 60_exceptions.md R320 as the issuing agent sees them (the MODEL's own
field, log 2). -/
inductive Reply where
  /-- No step has been taken. -/
  | silent
  /-- An operation ended and returned this code and value. -/
  | result (c : ResultCode) (v : Value)
  /-- A hardware or environment event was taken. -/
  | event
  /-- The event's enabling condition was false: it has no step and its agent waits (R326, log 3). -/
  | notEnabled
  /-- The command was refused (R327). -/
  | refused (op : Byte)
  /-- The step faulted (R325). -/
  | faulted (c : FaultCode)
deriving DecidableEq, Repr

/-- Why the machine stops with a fault. -/
inductive Fault where
  /-- Raised by `step` in a state whose `fault` mark is set: "The faulted state is quiescent: the model takes no further
  step from it" (60_exceptions.md R325). Safe. -/
  | quiescent (c : FaultCode)
  /-- Raised by an operation that would form an address outside a storage space, which no rule does (20_memory.md R60: "a
  model may refuse such an access"); no run from reset reaches it (log 20). Safe. -/
  | outsideSpace (sp : Space)
deriving DecidableEq, Repr

/-- Why the machine refuses to step. -/
inductive Refusal where
  /-- Raised by an arm of `exec` whose operation has no meaning in the model; no arm does. Safe. -/
  | notModelled (mnemonic : String)
  /-- Raised by `step` when no agent has issued a command: there is no step to take (log 21). Safe. -/
  | noCommand
  /-- Raised by `step` when fewer bytes are issued than the command takes (30_encoding.md R81; log 21). Safe. -/
  | incompleteCommand
deriving DecidableEq, Repr

/-! ## The state -/

/-- The whole state of the block (10_state.md), and three fields of the model's own: `inbox`, `reply`, `draws`. -/
structure State where
  rb0 : Ring
  txrb : Ring
  rx : RxWindow
  uart : Uart
  pin : Pins
  usb : Usb
  epOut : Vector Endpoint (Config.numEp - 1)
  epIn : Vector Endpoint (Config.numEp - 1)
  pma : Memory
  ctrl : Ctrl
  filters : List Filter
  br : Bridge
  wireOut : List Byte
  hostIn : List (EpAddr × List Byte)
  stalls : Nat
  fault : Option FaultCode
  refused : Option Byte
  inbox : List Byte
  reply : Reply
  draws : Nat
deriving DecidableEq, Repr

/-! ## Reset values -/

/-- `DEFAULT_CODING` (10_state.md R25): {115200, 8, none, 1}. -/
def LineCoding.default : LineCoding := ⟨115200, .eight, .one, .none⟩

/-- An empty ring (10_state.md R21, R54) of capacity `cap`. -/
def Ring.reset (cap : Nat) : Ring := ⟨cap, [], 0, 0⟩

/-- The RX window at reset (10_state.md R23). -/
def RxWindow.reset : RxWindow := ⟨Config.rbCapRx, [], Config.rbCapRx, 0, 0, false⟩

/-- The UART engine at reset (10_state.md R25-R30, R55); R26 gives `rx_hwm` as 1024 - 57 = 967. -/
def Uart.reset : Uart :=
  { coding := LineCoding.default
    rxHwm := 967
    effBaud := Config.effectiveBaud LineCoding.default.baud
    txBusy := false
    txChunk := 0
    overrun := false
    parityErr := false
    enabled := false }

/-- What an unused slot of an endpoint of direction `d` holds (10_state.md R36). -/
def Slot.reset : Dir → Slot
  | .OUT => ⟨.FREE, 0, 0⟩
  | .IN => ⟨.EMPTY, 0, 0⟩

/-- An unconfigured endpoint (10_state.md R36). -/
def Endpoint.reset (d : Dir) : Endpoint :=
  { cfg := false
    type := .BULK
    mps := 0
    dbl := false
    slot0 := Slot.reset d
    slot1 := Slot.reset d
    hwNext := 0
    swNext := 0
    paused := false
    hwstat := .DISABLED
    syncPending := false
    halt := false
    handler := none
    irq := 0 }

/-- Packet memory just past endpoint 0's two slots (10_state.md R39). -/
def pmaFirst : Nat := 2 * Config.mps0

/-- USB device state at reset (10_state.md R33-R35, R39). -/
def Usb.reset : Usb := ⟨0, 0, none, pmaFirst⟩

/-- The control context at reset (10_state.md R41-R46); `setup`, `in0Len`, `in0Data` are DESIGN CHOICE (log 13). -/
def Ctrl.reset : Ctrl :=
  { setup := List.replicate 8 0
    buf := []
    cursor := 0
    length := 0
    resp := []
    zlp := false
    state := .IDLE
    onDone := none
    in0 := .EMPTY
    in0Len := 0
    in0Data := [] }

/-- The bridge at reset (10_state.md R48-R51). -/
def Bridge.reset : Bridge := ⟨0, 0, 0, false⟩

/-- The block right after power-on (70_reset_and_hazards.md R350, R351). -/
def State.reset : State :=
  { rb0 := Ring.reset Config.rb0Cap
    txrb := Ring.reset Config.rbCapTx
    rx := RxWindow.reset
    uart := Uart.reset
    pin := ⟨false, false, Config.resetDsrW, Config.resetDcdW, Config.resetCtsW⟩
    usb := Usb.reset
    epOut := Vector.replicate (Config.numEp - 1) (Endpoint.reset .OUT)
    epIn := Vector.replicate (Config.numEp - 1) (Endpoint.reset .IN)
    pma := []
    ctrl := Ctrl.reset
    filters := []
    br := Bridge.reset
    wireOut := []
    hostIn := []
    stalls := 0
    fault := none
    refused := none
    inbox := []
    reply := .silent
    draws := 0 }

end Sys2Proof.Machine
end

