-- ==== Sys2Proof/Machine/Ops.lean ====
section
/-! DEFINITION. The named operations over storage and state that every meaning is written with: reading and writing storage
spaces, reaching an endpoint, replying, raising a fault, refusing, entering and leaving a completion callback. -/

namespace Sys2Proof.Machine

/-! ## Storage (00_scope.md R10 `MemRead`, `MemWrite`; 20_memory.md R60, R62) -/

/-- Addresses strictly rising, all at least `lo`, and no listed byte equal to what an unlisted address reads as. -/
def Memory.wfFrom : Nat → Memory → Bool
  | _, [] => true
  | lo, (a, b) :: m => decide (lo ≤ a) && decide (b ≠ unlisted) && Memory.wfFrom (a + 1) m

/-- The canonical form of a storage space. -/
def Memory.wf (m : Memory) : Bool := Memory.wfFrom 0 m

/-- The byte at an address. -/
def Memory.read : Memory → Nat → Byte
  | [], _ => unlisted
  | (c, x) :: m, a => if c = a then x else Memory.read m a

/-- Drop what is listed at an address. -/
def Memory.erase : Memory → Nat → Memory
  | [], _ => []
  | (c, x) :: m, a => if c = a then Memory.erase m a else (c, x) :: Memory.erase m a

/-- List a byte before the first larger address. -/
def Memory.insert : Memory → Nat → Byte → Memory
  | [], a, b => [(a, b)]
  | (c, x) :: m, a, b => if a < c then (a, b) :: (c, x) :: m else (c, x) :: Memory.insert m a b

/-- Write one byte, keeping the canonical form. -/
def Memory.write (m : Memory) (a : Nat) (b : Byte) : Memory :=
  if b = unlisted then Memory.erase m a else Memory.insert (Memory.erase m a) a b

/-- `MemRead(space, addr, n)` (R10). -/
def Memory.readBytes (m : Memory) : Nat → Nat → List Byte
  | _, 0 => []
  | a, n + 1 => Memory.read m a :: Memory.readBytes m (a + 1) n

/-- `MemWrite(space, addr, n, v)` (R10), `n` the length of `v`. -/
def Memory.writeBytes (m : Memory) : Nat → List Byte → Memory
  | _, [] => m
  | a, b :: bs => Memory.writeBytes (Memory.write m a b) (a + 1) bs

/-- The size of a storage space (R60). -/
def Space.size : Space → Nat
  | .rb0 => Config.rb0Cap
  | .txrb => Config.rbCapTx
  | .rxrb => Config.rbCapRx
  | .pma => Config.pmaBytes
  | .cbuf => Config.ctrlBufCap

/-- The contents of a storage space. -/
def State.space (s : State) : Space → Memory
  | .rb0 => s.rb0.storage
  | .txrb => s.txrb.storage
  | .rxrb => s.rx.storage
  | .pma => s.pma
  | .cbuf => s.ctrl.buf

/-- The byte a storage space holds at an address. -/
def State.readByte (s : State) (sp : Space) (a : Nat) : Byte := Memory.read (s.space sp) a

/-! ## Stopping (60_exceptions.md R325, R327) -/

/-- Why an operation does not end: the firmware's misuse of the block (R325), or an address no rule forms (R60). -/
inductive Stop where
  | misuse (c : FaultCode)
  | outside (sp : Space)
deriving DecidableEq, Repr

/-- The addresses `a .. a+n-1` are inside a space of R60. -/
def checkSpace (sp : Space) (a n : Nat) : Except Stop Unit :=
  if a + n ≤ sp.size then .ok () else .error (.outside sp)

/-- TAKING A FAULT (R325): the step has no effect but the mark `fault`. `s` is the state before the step. -/
def State.raise (s : State) (c : FaultCode) : State := { s with fault := some c, reply := .faulted c }

/-- Refusing a command (R327, 30_encoding.md R83): no effect but the mark `refused`. -/
def State.refuse (s : State) (op : Byte) : State := { s with refused := some op, reply := .refused op }

/-- An event that is not enabled (R326): nothing changes, its agent waits (log 3). -/
def State.waits (s : State) : State := { s with reply := .notEnabled }

/-- `return r` (R10, R98). -/
def State.answer (s : State) (c : ResultCode) (v : Value) : State := { s with reply := .result c v }

/-- An event has been taken; it returns nothing. -/
def State.taken (s : State) : State := { s with reply := .event }

/-- The outcome of a step whose operation, started in `s`, ended as `r` (R325). -/
def State.conclude (s : State) (r : Except Stop State) : Host.Outcome State Fault Refusal :=
  match r with
  | .ok t => .next t
  | .error (.misuse c) => .next (s.raise c)
  | .error (.outside sp) => .fault (.outsideSpace sp)

/-! ## Observation logs (10_state.md R52) -/

/-- `emit Wire(b)` for each byte (R10). -/
def State.emitWire (s : State) (bs : List Byte) : State := { s with wireOut := s.wireOut ++ bs }

/-- `emit Host(a, b)` (R10). -/
def State.emitHost (s : State) (a : EpAddr) (bs : List Byte) : State := { s with hostIn := s.hostIn ++ [(a, bs)] }

/-! ## Draws (41_uart_engine.md R137) -/

/-- A draw in `0 .. n`, a free value; each draw is a fresh one (log 7). -/
def State.draw (s : State) (n : Nat) : Nat := Config.abortDraw s.draws % (n + 1)

/-- One more draw has been made. -/
def State.drew (s : State) : State := { s with draws := s.draws + 1 }

/-! ## Endpoints (10_state.md R36) -/

/-- The endpoints of a direction. -/
def State.bank (s : State) : Dir → Vector Endpoint (Config.numEp - 1)
  | .OUT => s.epOut
  | .IN => s.epIn

/-- `S.ep[n][d]`. There is none for endpoint 0 (R36: `n` from 1), which reads as an unconfigured one (log 15). -/
def State.ep (s : State) (a : EpAddr) : Endpoint :=
  match a.num.val with
  | 0 => Endpoint.reset a.dir
  | k + 1 => (s.bank a.dir)[k]?.getD (Endpoint.reset a.dir)

/-- `S.ep[n][d] <- e`; nothing for endpoint 0. -/
def State.setEp (s : State) (a : EpAddr) (e : Endpoint) : State :=
  match a.num.val, a.dir with
  | 0, _ => s
  | k + 1, .OUT => { s with epOut := s.epOut.setIfInBounds k e }
  | k + 1, .IN => { s with epIn := s.epIn.setIfInBounds k e }

/-- The slot numbered `i`. -/
def Endpoint.slot (e : Endpoint) (i : Fin 2) : Slot := if i = 0 then e.slot0 else e.slot1

/-- Replace the slot numbered `i`. -/
def Endpoint.setSlot (e : Endpoint) (i : Fin 2) (sl : Slot) : Endpoint :=
  if i = 0 then { e with slot0 := sl } else { e with slot1 := sl }

/-- A slot index taken `mod e.K` (42_endpoint_engine.md, notation). -/
def Endpoint.wrap (e : Endpoint) (i : Fin 2) : Fin 2 := if e.dbl then i else 0

/-- `(s + 1) mod e.K`. -/
def Endpoint.succ (e : Endpoint) (i : Fin 2) : Fin 2 := if e.dbl then i + 1 else 0

/-- The slot hardware sends from or fills next. -/
def Endpoint.hwIdx (e : Endpoint) : Fin 2 := e.wrap e.hwNext

/-- The slot software writes or reads next. -/
def Endpoint.swIdx (e : Endpoint) : Fin 2 := e.wrap e.swNext

/-- `f` applied to every endpoint of a bank. -/
def mapBank (f : Endpoint → Endpoint) (v : Vector Endpoint (Config.numEp - 1)) : Vector Endpoint (Config.numEp - 1) :=
  ⟨⟨v.toList.map f⟩, by simp⟩

/-- `f` applied to every endpoint. -/
def State.mapEps (s : State) (f : Endpoint → Endpoint) : State :=
  { s with epOut := mapBank f s.epOut, epIn := mapBank f s.epIn }

/-! ## Completion callbacks (60_exceptions.md R334, R335: the analogue of trap entry and return) -/

/-- Entry to the completion callback of `a` (42_endpoint_engine.md R190). -/
def State.enterCallback (s : State) (a : EpAddr) : State := { s with usb := { s.usb with inCallback := some a } }

/-- End of the completion callback, before the deferred synchronisations (R190, R335). -/
def State.leaveCallback (s : State) : State := { s with usb := { s.usb with inCallback := none } }

/-! ## Fetching (30_encoding.md R80; 60_exceptions.md R333, log 1) -/

/-- The next command of the global order, read from the bytes the agents have issued. -/
def State.fetch (s : State) : Decoded := decode s.inbox

/-- The command has been taken; `rest` is what is still to come. -/
def State.consume (s : State) (rest : List Byte) : State := { s with inbox := rest }

/-- An operation with the opcode table's bits `w` is issued next. -/
def State.issueTableWord (s : State) (nbits w : Nat) : State := { s with inbox := tableBytes nbits w ++ s.inbox }

end Sys2Proof.Machine
end

