-- ==== Sys2Proof/Machine/Operands.lean ====
section
/-! DEFINITION. The operand forms of the commands and of the USB wire formats: endpoint addresses, reserved bits, SETUP
fields, line codings, the SERIAL_STATE packet (30_encoding.md R83-R85, R88-R94). -/

namespace Sys2Proof.Machine

/-! ## Command operands (R83) -/

/-- The endpoint address a byte encodes: bit 7 the direction, bits 3:0 the number, bits 6:4 zero, the number below `NUM_EP`;
none for an illegal byte (R85). -/
def epAddrOfByte (b : Byte) : Option EpAddr :=
  if b.extractLsb' 4 3 = 0#3 then
    if h : (b.extractLsb' 0 4).toNat < Config.numEp then
      some ⟨if b.getLsbD 7 then .IN else .OUT, ⟨(b.extractLsb' 0 4).toNat, h⟩⟩
    else none
  else none

/-- The byte form of an endpoint address (R85). -/
def epAddrToByte (a : EpAddr) : Byte :=
  (match a.dir with | .OUT => 0x00#8 | .IN => 0x80#8) ||| BitVec.ofNat 8 a.num.val

/-- The only ring id is 0, the standalone ring (R83; 90_conflicts.md C10). -/
def legalRing (sel : Byte) : Bool := sel = 0

/-- Bits 15:1 of UART_SET_DTR's argument are clear (R83). -/
def legalDtrArg (arg : Half) : Bool := arg.extractLsb' 1 15 = 0#15

/-- Bits 15:8 of EV_UART_RX_BYTE's argument are clear (R83). -/
def legalRxArg (arg : Half) : Bool := arg.extractLsb' 8 8 = 0#8

/-- Bits 15:3 of EV_PIN_LEVELS's argument are clear (R83). -/
def legalPinArg (arg : Half) : Bool := arg.extractLsb' 3 13 = 0#13

/-- EP_SETUP's transfer type: 2 BULK, 3 INTERRUPT; 0 and 1 are illegal (R84). -/
def epTypeOf (type : BitVec 2) : Option EpType :=
  if type = 2#2 then some .BULK else if type = 3#2 then some .INTERRUPT else none

/-- EP_READ_STATUS's endpoint number, `sel[3:0]`; none from `NUM_EP` on (R83; 42_endpoint_engine.md R193). -/
def statusNumber (sel : Byte) : Option (Fin Config.numEp) :=
  if h : (sel.extractLsb' 0 4).toNat < Config.numEp then some ⟨(sel.extractLsb' 0 4).toNat, h⟩ else none

/-- CTRL_REGISTER_FILTER's handler: id 1 is the CDC class handler, any other is illegal (R83; 43_control_transfer.md R238). -/
def filterHandlerOf (sel : Byte) : Option FilterHandler := if sel = 1 then some .cdcClass else none

/-! ## SETUP packets (R88, R89) -/

/-- The fields of a SETUP packet. -/
structure Request where
  bmRequestType : Byte
  bRequest : Byte
  wValue : Half
  wIndex : Half
  wLength : Half
deriving DecidableEq, Repr

/-- The fields of the 8 bytes of a SETUP packet (R88). -/
def requestOf (p : List Byte) : Request := ⟨p.getD 0 0, p.getD 1 0, le16 p 2, le16 p 4, le16 p 6⟩

/-- `dirIN = bmRequestType[7]` (R89). -/
def Request.dirIn (r : Request) : Bool := r.bmRequestType.getLsbD 7

/-- `rtype = bmRequestType[6:5]` (R89). -/
def Request.rtype (r : Request) : BitVec 2 := r.bmRequestType.extractLsb' 5 2

/-- The low byte of `wIndex`, an endpoint address in endpoint requests (43_control_transfer.md R242). -/
def Request.indexByte (r : Request) : Byte := r.wIndex.extractLsb' 0 8

/-! ## Line codings (R92; 41_uart_engine.md R131, R135) -/

/-- Stop bits of `bCharFormat` (R92). -/
def stopBitsOf (b : Byte) : Option StopBits :=
  if b = 0 then some .one else if b = 1 then some .onePointFive else if b = 2 then some .two else none

/-- Parity of `bParityType`; mark (3) and space (4) are invalid (R131). -/
def parityOf (b : Byte) : Option Parity :=
  if b = 0 then some .none else if b = 1 then some .odd else if b = 2 then some .even else none

/-- Data bits of `bDataBits` (R131). -/
def dataBitsOf (b : Byte) : Option DataBits :=
  if b = 7 then some .seven else if b = 8 then some .eight else if b = 9 then some .nine else none

/-- `decode_coding(p)` (R131); none is `invalid`. -/
def decodeCoding (p : List Byte) : Option LineCoding :=
  match stopBitsOf (p.getD 4 0), parityOf (p.getD 5 0), dataBitsOf (p.getD 6 0) with
  | some sb, some pa, some db => some ⟨le32 p 0, db, sb, pa⟩
  | _, _, _ => none

/-- `bCharFormat` of a line coding (R92). -/
def stopBitsByte : StopBits → Byte
  | .one => 0
  | .onePointFive => 1
  | .two => 2

/-- `bParityType` of a line coding (R92). -/
def parityByte : Parity → Byte
  | .none => 0
  | .odd => 1
  | .even => 2

/-- `bDataBits` of a line coding (R92). -/
def dataBitsByte : DataBits → Byte
  | .seven => 7
  | .eight => 8
  | .nine => 9

/-- `encode_coding(c)` (R131, R92). -/
def encodeCoding (c : LineCoding) : List Byte :=
  bytes32 c.baud ++ [stopBitsByte c.stopBits, parityByte c.parity, dataBitsByte c.dataBits]

/-- `legal(c)` (R135) for a value of `ALLOW_9N`. -/
def legalCodingWith (allow9N : Bool) (c : LineCoding) : Bool :=
  match c.parity, c.dataBits with
  | .none, .eight => true
  | .none, .nine => allow9N
  | .none, .seven => false
  | .odd, .seven => true
  | .odd, .eight => true
  | .odd, .nine => false
  | .even, .seven => true
  | .even, .eight => true
  | .even, .nine => false

/-- `legal(c)` (R135). -/
def legalCoding (c : LineCoding) : Bool := legalCodingWith Config.allow9N c

/-! ## The SERIAL_STATE notification (R94; 90_conflicts.md C1) -/

/-- The 10 bytes that carry a serial-state bitmap. -/
def serialStatePacket (st : Half) : List Byte :=
  [0xA1, 0x20, 0x00, 0x00] ++ bytes16 Config.commIf ++ [0x02, 0x00] ++ bytes16 st

end Sys2Proof.Machine
end

