-- ==== Sys2Proof/Machine/Flags.lean ====
section
/-! DEFINITION. Everything the block computes from its state without changing it: counts, statuses, packed views, pin
levels, handshakes, the rates and marks of the UART. -/

namespace Sys2Proof.Machine

/-! ## Modular distances (00_scope.md R8) -/

/-- `(a - b) mod n` on naturals. -/
def modSub (a b n : Nat) : Nat := (a + (n - b % n)) % n

/-! ## Rings and the RX window (40_ring_buffer.md R110; 10_state.md R23, R24) -/

/-- `occ(r)`. -/
def Ring.occ (r : Ring) : Nat := modSub r.head r.tail r.cap

/-- `space(r)`. -/
def Ring.space (r : Ring) : Nat := r.cap - 1 - r.occ

/-- `contig(r)`: bytes readable from the tail without wrapping. -/
def Ring.contig (r : Ring) : Nat := if r.tail ≤ r.head then r.head - r.tail else r.cap - r.tail

/-- `rx_head`: the write position the DMA's remaining count gives (R23). -/
def RxWindow.head (x : RxWindow) : Nat := (x.cap - x.dmaRem) % x.cap

/-- `rx_len`: the apparent unread length (R24). -/
def RxWindow.len (x : RxWindow) : Nat := modSub x.head x.tail x.cap

/-! ## UART -/

/-- `chunk_cap(baud)` (41_uart_engine.md R142) for given constants. -/
def chunkCapWith (div lo hi : Nat) (baud : Word) : Nat := min (max (baud.toNat / div) lo) hi

/-- `chunk_cap(baud)` (R142). -/
def chunkCap (baud : Word) : Nat := chunkCapWith Config.chunkDiv Config.chunkMin Config.chunkMax baud

/-- The high-water mark of a rate, `sat0(RB_CAP_RX - baud // 2000)` (10_state.md R26). -/
def highWaterMark (baud : Word) : Nat := Config.rbCapRx - baud.toNat / 2000

/-- Seven-bit masking (R152): the high bit is cleared exactly when the coding has 7 data bits. -/
def maskFor (c : LineCoding) (bs : List Byte) : List Byte :=
  if c.dataBits = .seven then bs.map (· &&& 0x7F#8) else bs

/-! ## Pins (10_state.md R31, R32) -/

/-- Logical DSR. -/
def Pins.dsr (p : Pins) : Bool := !p.dsrW
/-- Logical DCD. -/
def Pins.dcd (p : Pins) : Bool := !p.dcdW
/-- Logical CTS. -/
def Pins.cts (p : Pins) : Bool := !p.ctsW
/-- The DTR wire level. -/
def Pins.dtrW (p : Pins) : Bool := !p.dtr
/-- The RTS wire level. -/
def Pins.rtsW (p : Pins) : Bool := !p.rts

/-! ## Endpoints (10_state.md R36-R38) -/

/-- The number of slots, `K`. -/
def Endpoint.K (e : Endpoint) : Nat := if e.dbl then 2 else 1

/-- How many of the `K` slots are in state `st`. -/
def Endpoint.count (e : Endpoint) (st : SlotState) : Nat :=
  (if e.slot0.state = st then 1 else 0) + (if e.dbl ∧ e.slot1.state = st then 1 else 0)

/-- `in_flight(e)` (R37). -/
def Endpoint.inFlight (e : Endpoint) : Nat := e.count .LOADED

/-- `held(e)` (R37). -/
def Endpoint.held (e : Endpoint) : Nat := e.count .HELD

/-- `want_stat(e)` (R38). -/
def Endpoint.wantStat (e : Endpoint) : EpStat :=
  if !e.cfg then .DISABLED else if e.halt then .STALL else if e.paused then .NAK else .VALID

/-- EPSTAT encoding (30_encoding.md R95). -/
def epStatBits : EpStat → BitVec 2
  | .DISABLED => 0
  | .STALL => 1
  | .NAK => 2
  | .VALID => 3

/-- The RX_SL encoding of an OUT slot (R96). -/
def rxSlotBits : SlotState → BitVec 2
  | .FULL => 1
  | .HELD => 2
  | .FREE => 0
  | .EMPTY => 0
  | .LOADED => 0

/-- The TYPE encoding of a transfer type (R96, R84). -/
def epTypeBits : EpType → BitVec 2
  | .BULK => 2
  | .INTERRUPT => 3

/-- The TYPE field: the type of the configured direction, IN if both, 0 if neither (R96). -/
def eprType (o i : Endpoint) : BitVec 2 :=
  if i.cfg then epTypeBits i.type else if o.cfg then epTypeBits o.type else 0

/-- `EPR[n]` of an endpoint number from 1 on (R96), from bits 31:30 (IRQ) down to 3:0 (EA). -/
def packEpr (n : BitVec 4) (o i : Endpoint) : Word :=
  BitVec.ofNat 2 o.irq ++ eprType o i ++ BitVec.ofBool o.halt ++ BitVec.ofBool i.halt
    ++ (if o.dbl then rxSlotBits o.slot1.state else 0#2) ++ rxSlotBits o.slot0.state
    ++ BitVec.ofBool (o.syncPending || i.syncPending) ++ BitVec.ofNat 2 o.held ++ BitVec.ofBool o.paused
    ++ BitVec.ofBool o.cfg ++ BitVec.ofBool o.dbl ++ BitVec.ofFin (w := 1) o.swNext ++ BitVec.ofFin (w := 1) o.hwNext
    ++ epStatBits o.hwstat ++ BitVec.ofBool i.cfg ++ BitVec.ofBool i.dbl ++ BitVec.ofNat 2 i.inFlight
    ++ BitVec.ofFin (w := 1) i.swNext ++ BitVec.ofFin (w := 1) i.hwNext ++ epStatBits i.hwstat ++ n

/-- `EPR[0]` (R96): STAT_TX and STAT_RX are STALL while the control machine is STALLED, else VALID; all else is 0. -/
def packEpr0 (st : CtrlState) : Word :=
  if st = .STALLED then
    0#18 ++ epStatBits .STALL ++ 0#6 ++ epStatBits .STALL ++ 0#4
  else
    0#18 ++ epStatBits .VALID ++ 0#6 ++ epStatBits .VALID ++ 0#4

/-- `EPR[n]` (R96, 10_state.md R40). -/
def State.epr (s : State) (n : Fin Config.numEp) : Word :=
  if n.val = 0 then packEpr0 s.ctrl.state
  else packEpr (BitVec.ofNat 4 n.val) (s.ep ⟨.OUT, n⟩) (s.ep ⟨.IN, n⟩)

/-! ## Handshakes the host sees (42_endpoint_engine.md R185, R187; 43_control_transfer.md R233; 60_exceptions.md R324) -/

/-- What the host sees when it addresses an endpoint. -/
inductive Handshake where
  /-- No handshake at all (the endpoint is disabled). -/
  | silent
  | stall
  | nak
  /-- The packet is accepted (OUT) or sent (IN). -/
  | ack
deriving DecidableEq, Repr

/-- OUT handshake (R185). -/
def Endpoint.outHandshake (e : Endpoint) : Handshake :=
  match e.hwstat with
  | .DISABLED => .silent
  | .STALL => .stall
  | .NAK => .nak
  | .VALID => if (e.slot e.hwIdx).state = .FREE then .ack else .nak

/-- IN handshake (R187); NAK status, which R187 does not list for IN, sends nothing either. -/
def Endpoint.inHandshake (e : Endpoint) : Handshake :=
  match e.hwstat with
  | .DISABLED => .silent
  | .STALL => .stall
  | .NAK => .nak
  | .VALID => if (e.slot e.hwIdx).state = .LOADED then .ack else .nak

/-- Endpoint 0's answer to an OUT packet: STALL while the control machine is STALLED (R324, R233), else it is accepted, for
endpoint 0's receive slot is always free (10_state.md R46). -/
def Ctrl.outHandshake (c : Ctrl) : Handshake := if c.state = .STALLED then .stall else .ack

/-- Endpoint 0's answer to an IN token: STALL while the control machine is STALLED (R324, R233), else the loaded packet,
else NAK (10_state.md R46, 43_control_transfer.md R229; DEDUCED, log 19). -/
def Ctrl.inHandshake (c : Ctrl) : Handshake :=
  if c.state = .STALLED then .stall else if c.in0 = .LOADED then .ack else .nak

/-- What the host sees when it addresses an endpoint: an OUT packet to an OUT address, an IN token to an IN address. -/
def State.handshake (s : State) (a : EpAddr) : Handshake :=
  match a.num.val, a.dir with
  | 0, .OUT => s.ctrl.outHandshake
  | 0, .IN => s.ctrl.inHandshake
  | _ + 1, .OUT => (s.ep a).outHandshake
  | _ + 1, .IN => (s.ep a).inHandshake

/-! ## Control state (30_encoding.md R97; 43_control_transfer.md R239) -/

/-- The 4-bit control state code (R97). -/
def ctrlStateBits : CtrlState → BitVec 4
  | .IDLE => 0
  | .STALLED => 1
  | .DATA_IN => 2
  | .LAST_DATA_IN => 3
  | .STATUS_IN => 4
  | .DATA_OUT => 5
  | .LAST_DATA_OUT => 6
  | .STATUS_OUT => 7

/-- `encode(S.ctrl.state) | S.usb.address << 8 | S.usb.config << 16` (R239). -/
def State.ctrlView (s : State) : Word :=
  (ctrlStateBits s.ctrl.state).setWidth 32 ||| (s.usb.address.setWidth 32 <<< 8) ||| (s.usb.config.setWidth 32 <<< 16)

/-! ## Serial state (30_encoding.md R93; 44_cdc_bridge.md R290) -/

/-- Bit 6 of the serial-state bitmap: overrun. -/
def overrunBit : Half := 0x0040
/-- Bit 5 of the serial-state bitmap: parity error. -/
def parityBit : Half := 0x0020

/-- `state()` (R290). -/
def State.serialState (s : State) : Half :=
  s.br.pending ||| (if s.pin.dcd then 1 else 0) ||| (if s.pin.dsr then 2 else 0)

/-! ## Numbers of the codes (30_encoding.md R98; 60_exceptions.md R328) -/

/-- The result codes' numbers. -/
def ResultCode.toByte : ResultCode → Byte
  | .OK => 0
  | .BUSY => 1
  | .INVALID_CODING => 2
  | .NOT_READY => 3

/-- The fault codes' numbers. -/
def FaultCode.number : FaultCode → Nat
  | .EP_NOT_CONFIGURED => 1
  | .EP0_RESERVED => 2
  | .BAD_BUFFER_SIZE => 3
  | .PMA_EXHAUSTED => 4
  | .PACKET_TOO_LONG => 5
  | .OUTSIDE_CALLBACK => 6
  | .BUFFER_TOO_SMALL => 7
  | .FILTER_TABLE_FULL => 8

end Sys2Proof.Machine
end

