-- ==== Sys2Proof/Machine/EndpointEngine.lean ====
section
/-! DEFINITION. The endpoint transfer engine (42_endpoint_engine.md): its operations as functions of the state, which the
bridge and the control machine perform as sub-operations, and the meanings of EP_* and of the bulk and interrupt events that
run no callback. -/

namespace Sys2Proof.Machine

/-! ## Legality (R170) -/

/-- The endpoint an operation takes that works in direction `d` only: it must be configured and of that direction. -/
def State.epFor (s : State) (d : Dir) (a : EpAddr) : Except Stop Endpoint :=
  if a.dir = d ∧ (s.ep a).cfg then .ok (s.ep a) else .error (.misuse .EP_NOT_CONFIGURED)

/-- The endpoint an operation takes that works in either direction. -/
def State.epAny (s : State) (a : EpAddr) : Except Stop Endpoint :=
  if (s.ep a).cfg then .ok (s.ep a) else .error (.misuse .EP_NOT_CONFIGURED)

/-! ## Configuration (R171, R172, R173) -/

/-- MPS of a transfer type (R171). -/
def mpsOf : EpType → Nat
  | .BULK => Config.mpsBulk
  | .INTERRUPT => Config.mpsInt

/-- `handler_for(a)` (44_cdc_bridge.md R286). -/
def handlerFor (a : EpAddr) : Option EpHandler := if a = Config.epBulkOut then some .onUsbDataReceived else none

/-- The empty slot of a direction at a packet-memory offset. -/
def freshSlot (d : Dir) (offset : Nat) : Slot := { Slot.reset d with pma := offset }

/-- Double buffering is enabled for a bulk endpoint whose buffer exceeds one packet (R171, R172). -/
def setupDbl (size : Nat) (type : EpType) : Bool := type = .BULK ∧ Config.mpsBulk < size

/-- The bytes of packet memory of one slot: `mps` rounded up to an even number (R173). -/
def setupSlotBytes (size : Nat) (type : EpType) : Nat := min size (mpsOf type) + min size (mpsOf type) % 2

/-- Where the allocation mark stands after an endpoint's slots are allocated from `base` on (R173). -/
def setupFinal (base size : Nat) (type : EpType) : Nat :=
  base + (if setupDbl size type then 2 else 1) * setupSlotBytes size type

/-- The transfer state EP_SETUP leaves in the endpoint `a` (R171), its slots allocated from `base` on (R173). A second slot's
offset is written only when there is one. Fresh slots hold no packet, so no completion callback waits and `irq` is 0, as its
range 0..2 needs (10_state.md R36; log 16). -/
def Endpoint.setUp (e : Endpoint) (a : EpAddr) (base size : Nat) (type : EpType) : Endpoint :=
  let e' : Endpoint :=
    { e with
      cfg := true, type := type, mps := min size (mpsOf type), dbl := setupDbl size type
      slot0 := freshSlot a.dir base
      slot1 := freshSlot a.dir (if setupDbl size type then base + setupSlotBytes size type else e.slot1.pma)
      hwNext := 0, swNext := 0, paused := false, halt := false, syncPending := false
      handler := handlerFor a, irq := 0 }
  { e' with hwstat := e'.wantStat }

/-- EP_SETUP's effect (R171), its faults in the rule's order. -/
def State.epSetup (s : State) (a : EpAddr) (size : Nat) (type : EpType) : Except Stop State :=
  if a.num.val = 0 then .error (.misuse .EP0_RESERVED)
  else if size = 0 then .error (.misuse .BAD_BUFFER_SIZE)
  else if Config.pmaBytes < setupFinal s.usb.pmaNext size type then .error (.misuse .PMA_EXHAUSTED)
  else
    .ok ({ s with usb := { s.usb with pmaNext := setupFinal s.usb.pmaNext size type } }.setEp a
      ((s.ep a).setUp a s.usb.pmaNext size type))

/-- Every endpoint from 1 on back to its reset value and packet memory given back (R192, R194). -/
def State.deconfigureAll (s : State) : State :=
  { s with
    epOut := Vector.replicate (Config.numEp - 1) (Endpoint.reset .OUT)
    epIn := Vector.replicate (Config.numEp - 1) (Endpoint.reset .IN)
    usb := { s.usb with pmaNext := pmaFirst, inCallback := none } }

/-! ## Hardware synchronisation (R184) -/

/-- A HELD slot becomes FREE. -/
def Slot.release (sl : Slot) : Slot := if sl.state = .HELD then { sl with state := .FREE } else sl

/-- `sync(e)` (R184): when not paused, release the HELD slots of `0 .. K-1`; then the hardware status follows. -/
def Endpoint.sync (e : Endpoint) : Endpoint :=
  let e1 : Endpoint :=
    if e.paused then e
    else { e with slot0 := e.slot0.release, slot1 := if e.dbl then e.slot1.release else e.slot1 }
  { e1 with hwstat := e.wantStat, syncPending := false }

/-- `sync_or_defer(a)` (R184, R191) applied to `e`, which is to be stored as the endpoint `a`. -/
def State.syncOrDefer (s : State) (a : EpAddr) (e : Endpoint) : State :=
  if s.usb.inCallback = some a then s.setEp a { e with syncPending := true } else s.setEp a e.sync

/-- EP_PAUSE's effect (R182). -/
def State.epPause (s : State) (a : EpAddr) : Except Stop State :=
  (s.epFor .OUT a).map fun e => s.syncOrDefer a { e with paused := true }

/-- EP_UNPAUSE's effect (R183). -/
def State.epUnpause (s : State) (a : EpAddr) : Except Stop State :=
  (s.epFor .OUT a).map fun e => s.syncOrDefer a { e with paused := false }

/-- EP_SET_HALT's effect (R188). -/
def State.epSetHalt (s : State) (a : EpAddr) : Except Stop State :=
  (s.epAny a).map fun e => s.syncOrDefer a { e with halt := true }

/-- EP_CLEAR_HALT's effect (R189). -/
def State.epClearHalt (s : State) (a : EpAddr) : Except Stop State :=
  (s.epAny a).map fun e => s.syncOrDefer a { e with halt := false }

/-! ## Packets -/

/-- The bytes of a slot (20_memory.md R60). -/
def State.slotBytes (s : State) (sl : Slot) : List Byte := s.pma.readBytes sl.pma sl.len

/-- EP_TRANSMIT_PACKET's effect (R174). -/
def State.epTransmit (s : State) (a : EpAddr) (data : List Byte) : Except Stop (State × ResultCode) :=
  match s.epFor .IN a with
  | .error x => .error x
  | .ok e =>
    if e.mps < data.length then .error (.misuse .PACKET_TOO_LONG)
    else if e.inFlight = e.K then .ok (s, .BUSY)
    else
      let i := e.swIdx
      match checkSpace .pma (e.slot i).pma data.length with
      | .error x => .error x
      | .ok () =>
        let e1 := e.setSlot i { e.slot i with len := data.length, state := .LOADED }
        .ok ({ s with pma := s.pma.writeBytes (e.slot i).pma data }.setEp a { e1 with swNext := e.succ i }, .OK)

/-- EP_WRITE_AVAIL's value (R175). -/
def State.epWriteAvail (s : State) (a : EpAddr) : Except Stop Nat :=
  (s.epFor .IN a).map fun e => if e.inFlight < e.K then e.mps else 0

/-- EP_READ_PACKET's effect (R179), with `ack` (R180); none is NOT_READY. -/
def State.epReadPacket (s : State) (a : EpAddr) (limit : Nat) : Except Stop (State × Option (List Byte)) :=
  match s.epFor .OUT a with
  | .error x => .error x
  | .ok e =>
    if s.usb.inCallback ≠ some a then .error (.misuse .OUTSIDE_CALLBACK)
    else
      let i := e.swIdx
      let sl := e.slot i
      if sl.state ≠ .FULL then .ok (s, none)
      else if limit < sl.len then .error (.misuse .BUFFER_TOO_SMALL)
      else
        match checkSpace .pma sl.pma sl.len with
        | .error x => .error x
        | .ok () =>
          let e1 := e.setSlot i { sl with state := if e.paused then .HELD else .FREE }
          .ok (s.setEp a { e1 with swNext := e.succ i }, some (s.slotBytes sl))

/-- EV_EP_IN_DONE is enabled (R178, R170). -/
def Endpoint.inDoneEnabled (e : Endpoint) : Bool :=
  e.cfg && decide (e.hwstat = .VALID) && decide ((e.slot e.hwIdx).state = .LOADED)

/-- EV_EP_IN_DONE's effect (R178): the oldest packet goes to the host and its slot is empty. -/
def State.epInDone (s : State) (a : EpAddr) : Except Stop State :=
  let e := s.ep a
  let sl := e.slot e.hwIdx
  match checkSpace .pma sl.pma sl.len with
  | .error x => .error x
  | .ok () =>
    let e1 := e.setSlot e.hwIdx { sl with state := .EMPTY, len := 0 }
    .ok ((s.emitHost a (s.slotBytes sl)).setEp a { e1 with hwNext := e.succ e.hwIdx })

/-- EV_EP_OUT is enabled for a packet of `n` bytes (R181, R170). -/
def Endpoint.outEnabled (e : Endpoint) (n : Nat) : Bool :=
  e.cfg && decide (e.hwstat = .VALID) && decide ((e.slot e.hwIdx).state = .FREE) && decide (n ≤ e.mps)

/-- EV_EP_OUT's effect (R181): the packet lands and its completion interrupt is pending. -/
def State.epOutPacket (s : State) (a : EpAddr) (data : List Byte) : Except Stop State :=
  let e := s.ep a
  let sl := e.slot e.hwIdx
  match checkSpace .pma sl.pma data.length with
  | .error x => .error x
  | .ok () =>
    let e1 := e.setSlot e.hwIdx { sl with len := data.length, state := .FULL }
    .ok ({ s with pma := s.pma.writeBytes sl.pma data }.setEp a
      { e1 with hwNext := e.succ e.hwIdx, irq := e.irq + 1 })

/-- The deferred synchronisations at the end of dispatch (R190): every endpoint with `sync_pending`. -/
def State.syncAllPending (s : State) : State := s.mapEps fun e => if e.syncPending then e.sync else e

/-! ## Meanings; an illegal address is refused (R170, 30_encoding.md R83) -/

/-- The outcome of an endpoint command: refused for an illegal address, else what `f` makes of the address. -/
def State.withEp (s : State) (op addr : Byte) (f : EpAddr → Host.Outcome State Fault Refusal) :
    Host.Outcome State Fault Refusal :=
  match epAddrOfByte addr with
  | some a => f a
  | none => .next (s.refuse op)

/-- EP_SETUP (R171); transfer types 0 and 1 are refused (30_encoding.md R84). -/
def execEpSetup (addr : Byte) (size : BitVec 14) (type : BitVec 2) (s : State) : Host.Outcome State Fault Refusal :=
  s.withEp 0x30 addr fun a =>
    match epTypeOf type with
    | some ty => s.conclude ((s.epSetup a size.toNat ty).map (·.answer .OK .unit))
    | none => .next (s.refuse 0x30)

/-- EP_TRANSMIT_PACKET (R174). -/
def execEpTransmitPacket (addr : Byte) (data : List Byte) (s : State) : Host.Outcome State Fault Refusal :=
  s.withEp 0x31 addr fun a => s.conclude ((s.epTransmit a data).map fun r => r.1.answer r.2 .unit)

/-- EP_WRITE_AVAIL (R175). -/
def execEpWriteAvail (addr : Byte) (s : State) : Host.Outcome State Fault Refusal :=
  s.withEp 0x32 addr fun a => s.conclude ((s.epWriteAvail a).map fun n => s.answer .OK (.len n))

/-- EP_READ_PACKET (R179). -/
def execEpReadPacket (addr : Byte) (limit : Half) (s : State) : Host.Outcome State Fault Refusal :=
  s.withEp 0x33 addr fun a => s.conclude ((s.epReadPacket a limit.toNat).map fun r =>
    match r.2 with
    | some b => r.1.answer .OK (.bytes b)
    | none => r.1.answer .NOT_READY .unit)

/-- EP_PAUSE (R182). -/
def execEpPause (addr : Byte) (s : State) : Host.Outcome State Fault Refusal :=
  s.withEp 0x34 addr fun a => s.conclude ((s.epPause a).map (·.answer .OK .unit))

/-- EP_UNPAUSE (R183). -/
def execEpUnpause (addr : Byte) (s : State) : Host.Outcome State Fault Refusal :=
  s.withEp 0x35 addr fun a => s.conclude ((s.epUnpause a).map (·.answer .OK .unit))

/-- EP_SET_HALT (R188). -/
def execEpSetHalt (addr : Byte) (s : State) : Host.Outcome State Fault Refusal :=
  s.withEp 0x36 addr fun a => s.conclude ((s.epSetHalt a).map (·.answer .OK .unit))

/-- EP_CLEAR_HALT (R189). -/
def execEpClearHalt (addr : Byte) (s : State) : Host.Outcome State Fault Refusal :=
  s.withEp 0x37 addr fun a => s.conclude ((s.epClearHalt a).map (·.answer .OK .unit))

/-- EV_EP_IN_DONE (R178). -/
def execEvEpInDone (addr : Byte) (s : State) : Host.Outcome State Fault Refusal :=
  s.withEp 0x39 addr fun a =>
    if (s.ep a).inDoneEnabled then s.conclude ((s.epInDone a).map State.taken) else .next s.waits

/-- EV_EP_OUT (R181). -/
def execEvEpOut (addr : Byte) (data : List Byte) (s : State) : Host.Outcome State Fault Refusal :=
  s.withEp 0x3A addr fun a =>
    if (s.ep a).outEnabled data.length then s.conclude ((s.epOutPacket a data).map State.taken) else .next s.waits

/-- EP_DECONFIGURE_ALL (R194). -/
def execEpDeconfigureAll (s : State) : Host.Outcome State Fault Refusal := .next (s.deconfigureAll.answer .OK .unit)

/-- EP_READ_STATUS (R193); a number from `NUM_EP` on is refused (30_encoding.md R83). -/
def execEpReadStatus (sel : Byte) (s : State) : Host.Outcome State Fault Refusal :=
  match statusNumber sel with
  | some n => .next (s.answer .OK (.u32 (s.epr n)))
  | none => .next (s.refuse 0x3C)

end Sys2Proof.Machine
end

