-- ==== Sys2Proof/Machine/RingBuffer.lean ====
section
/-! DEFINITION. Ring buffer operations (40_ring_buffer.md): `put` and `take` on a ring value, and the meanings of RB_*. -/

namespace Sys2Proof.Machine

/-- `put(r, data)` (R110): the new ring and the number of bytes accepted, in at most two contiguous spans. -/
def Ring.put (r : Ring) (data : List Byte) : Ring × Nat :=
  let n := min data.length r.space
  let n1 := min n (r.cap - r.head)
  let m1 := r.storage.writeBytes r.head (data.take n1)
  let m2 := m1.writeBytes 0 ((data.take n).drop n1)
  ({ r with storage := m2, head := (r.head + n) % r.cap }, n)

/-- `take(r, max)` (R110): the new ring and the bytes, from at most two spans. -/
def Ring.take (r : Ring) (limit : Nat) : Ring × List Byte :=
  let n := min limit r.occ
  let n1 := min n (r.cap - r.tail)
  let bytes := r.storage.readBytes r.tail n1 ++ r.storage.readBytes 0 (n - n1)
  ({ r with tail := (r.tail + n) % r.cap }, bytes)

/-- Both indices to 0; the storage stays (R115; 41_uart_engine.md R137). -/
def Ring.clear (r : Ring) : Ring := { r with head := 0, tail := 0 }

/-! ## Meanings; a ring id other than 0 is refused (30_encoding.md R83) -/

/-- RB_CLEAR (R115). -/
def execRbClear (ring : Byte) (s : State) : Host.Outcome State Fault Refusal :=
  if legalRing ring then .next ({ s with rb0 := s.rb0.clear }.answer .OK .unit)
  else .next (s.refuse 0x01)

/-- RB_ENQUEUE (R113). -/
def execRbEnqueue (ring : Byte) (data : List Byte) (s : State) : Host.Outcome State Fault Refusal :=
  if legalRing ring then .next ({ s with rb0 := (s.rb0.put data).1 }.answer .OK (.len (s.rb0.put data).2))
  else .next (s.refuse 0x02)

/-- RB_DEQUEUE (R114). -/
def execRbDequeue (ring : Byte) (limit : Half) (s : State) : Host.Outcome State Fault Refusal :=
  if legalRing ring then
    .next ({ s with rb0 := (s.rb0.take limit.toNat).1 }.answer .OK (.bytes (s.rb0.take limit.toNat).2))
  else .next (s.refuse 0x03)

/-- RB_AVAILABLE_SPACE (R112). -/
def execRbAvailableSpace (ring : Byte) (s : State) : Host.Outcome State Fault Refusal :=
  if legalRing ring then .next (s.answer .OK (.len s.rb0.space)) else .next (s.refuse 0x04)

/-- RB_OCCUPIED_LEN (R111), a u16. -/
def execRbOccupiedLen (ring : Byte) (s : State) : Host.Outcome State Fault Refusal :=
  if legalRing ring then .next (s.answer .OK (.u16 (BitVec.ofNat 16 s.rb0.occ))) else .next (s.refuse 0x05)

/-- RB_CONTIG_LEN (R119). -/
def execRbContigLen (ring : Byte) (s : State) : Host.Outcome State Fault Refusal :=
  if legalRing ring then .next (s.answer .OK (.len s.rb0.contig)) else .next (s.refuse 0x06)

end Sys2Proof.Machine
end

