-- ==== Sys2Proof/Machine/UartEngine.lean ====
section
/-! DEFINITION. The UART engine (41_uart_engine.md): its operations as functions of the state, which the bridge performs as
sub-operations, and the meanings of UART_* and EV_UART_*, EV_PIN_LEVELS. -/

namespace Sys2Proof.Machine

/-! ## Operations -/

/-- UART_CONFIGURE's effect (R136): an undecodable or illegal coding changes nothing. -/
def State.uartConfigure (s : State) (p : List Byte) : State × ResultCode :=
  match decodeCoding p with
  | some c =>
    if legalCoding c then
      ({ s with uart := { s.uart with
            coding := c, effBaud := Config.effectiveBaud c.baud, rxHwm := highWaterMark c.baud } }, .OK)
    else (s, .INVALID_CODING)
  | none => (s, .INVALID_CODING)

/-- An aborted TX chunk: a draw says how many of its bytes, a prefix, had reached the wire (R137; 70_reset_and_hazards.md
R352). -/
def State.abortChunk (s : State) : Except Stop State :=
  if s.uart.txBusy then
    let k := s.draw s.uart.txChunk
    match checkSpace .txrb s.txrb.tail k with
    | .ok () => .ok (s.emitWire (s.txrb.storage.readBytes s.txrb.tail k)).drew
    | .error e => .error e
  else .ok s

/-- UART_ENABLE's register writes (R137), after the abort. -/
def State.uartRestart (s : State) : State :=
  { s with
    txrb := s.txrb.clear
    rx := { s.rx with tail := 0, lastLen := 0, dmaRem := Config.rbCapRx, armed := true }
    uart := { s.uart with txChunk := 0, txBusy := false, enabled := true }
    pin := { s.pin with dtr := false, rts := false } }

/-- UART_ENABLE's effect (R137). -/
def State.uartEnable (s : State) : Except Stop State := s.abortChunk.map State.uartRestart

/-- `tx_start()` (R139): start a chunk if the engine is enabled and idle and the TX ring holds data. -/
def State.txStart (s : State) : State :=
  if s.uart.enabled && !s.uart.txBusy && decide (0 < s.txrb.occ) then
    { s with uart := { s.uart with
        txChunk := min s.txrb.contig (chunkCap s.uart.coding.baud), txBusy := true } }
  else s

/-- UART_TRANSMIT's effect (R138): the bytes accepted. -/
def State.uartTransmit (s : State) (data : List Byte) : State × Nat :=
  let r := s.txrb.put (maskFor s.uart.coding data)
  ({ s with txrb := r.1 }.txStart, r.2)

/-- The unread length a poll goes on with: 0 after an overrun's resynchronisation and while the window is not armed
(R140 step 2). -/
def RxWindow.polledLen (x : RxWindow) : Nat :=
  if x.armed then (if x.len < x.lastLen then 0 else x.len) else 0

/-- UART_POLL step 2 (R140): fill level and overrun. -/
def State.pollRx (s : State) : State :=
  if s.rx.armed then
    if s.rx.len < s.rx.lastLen then
      { s with
        uart := { s.uart with overrun := true }
        rx := { s.rx with tail := s.rx.head, lastLen := 0 } }
    else { s with rx := { s.rx with lastLen := s.rx.len } }
  else s

/-- UART_POLL's effect (R140): TX restart, fill level and overrun, RTS (R153). -/
def State.uartPoll (s : State) : State :=
  let s1 := s.txStart
  let s2 := s1.pollRx
  { s2 with pin := { s2.pin with rts := s1.rx.armed && decide (s1.rx.polledLen < s1.uart.rxHwm) } }

/-- UART_COPY_RX's effect (R144): the bytes drained. -/
def State.uartCopyRx (s : State) (limit : Nat) : State × List Byte :=
  if s.rx.armed then
    let n := min s.rx.len limit
    let n1 := min n (s.rx.cap - s.rx.tail)
    let b := s.rx.storage.readBytes s.rx.tail n1 ++ s.rx.storage.readBytes 0 (n - n1)
    ({ s with rx := { s.rx with tail := (s.rx.tail + n) % s.rx.cap, lastLen := s.rx.len - n } },
      maskFor s.uart.coding b)
  else (s, [])

/-- UART_HAS_OVERRUN's effect (R145): read and clear. -/
def State.uartHasOverrun (s : State) : State × Bool :=
  ({ s with uart := { s.uart with overrun := false } }, s.uart.overrun)

/-- UART_RX_LEN's value (R150). -/
def State.uartRxLen (s : State) : Nat := if s.rx.armed then s.rx.len else 0

/-- UART_SET_DTR's effect (R148). -/
def State.uartSetDtr (s : State) (level : Bool) : State := { s with pin := { s.pin with dtr := level } }

/-- EV_UART_TX_DMA_DONE's effect (R141): the chunk's bytes go on the wire, the tail passes them, the next chunk starts. -/
def State.txDmaDone (s : State) : Except Stop State :=
  match checkSpace .txrb s.txrb.tail s.uart.txChunk with
  | .error e => .error e
  | .ok () =>
    let s1 := s.emitWire (s.txrb.storage.readBytes s.txrb.tail s.uart.txChunk)
    .ok ({ s1 with
      txrb := { s1.txrb with tail := (s1.txrb.tail + s1.uart.txChunk) % s1.txrb.cap }
      uart := { s1.uart with txChunk := 0, txBusy := false } }).txStart

/-- EV_UART_RX_BYTE's effect (R143): the circular DMA writes one byte, whatever is unread. -/
def State.rxByte (s : State) (b : Byte) : State :=
  if s.rx.armed then
    { s with rx := { s.rx with
        storage := s.rx.storage.write s.rx.head b
        dmaRem := if s.rx.dmaRem = 1 then Config.rbCapRx else s.rx.dmaRem - 1 } }
  else s

/-! ## Meanings -/

/-- UART_CONFIGURE (R136). -/
def execUartConfigure (coding : List Byte) (s : State) : Host.Outcome State Fault Refusal :=
  .next ((s.uartConfigure coding).1.answer (s.uartConfigure coding).2 .unit)

/-- UART_ENABLE (R137). -/
def execUartEnable (s : State) : Host.Outcome State Fault Refusal :=
  s.conclude (s.uartEnable.map (·.answer .OK .unit))

/-- UART_TRANSMIT (R138). -/
def execUartTransmit (data : List Byte) (s : State) : Host.Outcome State Fault Refusal :=
  .next ((s.uartTransmit data).1.answer .OK (.len (s.uartTransmit data).2))

/-- UART_POLL (R140). -/
def execUartPoll (s : State) : Host.Outcome State Fault Refusal := .next (s.uartPoll.answer .OK .unit)

/-- UART_COPY_RX (R144). -/
def execUartCopyRx (limit : Half) (s : State) : Host.Outcome State Fault Refusal :=
  .next ((s.uartCopyRx limit.toNat).1.answer .OK (.bytes (s.uartCopyRx limit.toNat).2))

/-- UART_HAS_OVERRUN (R145). -/
def execUartHasOverrun (s : State) : Host.Outcome State Fault Refusal :=
  .next (s.uartHasOverrun.1.answer .OK (.flag s.uartHasOverrun.2))

/-- UART_GET_DSR (R146). -/
def execUartGetDsr (s : State) : Host.Outcome State Fault Refusal := .next (s.answer .OK (.flag s.pin.dsr))

/-- UART_GET_DCD (R146). -/
def execUartGetDcd (s : State) : Host.Outcome State Fault Refusal := .next (s.answer .OK (.flag s.pin.dcd))

/-- UART_SET_DTR (R148); a reserved bit set is refused (30_encoding.md R83). -/
def execUartSetDtr (arg : Half) (s : State) : Host.Outcome State Fault Refusal :=
  if legalDtrArg arg then .next ((s.uartSetDtr (arg.getLsbD 0)).answer .OK .unit) else .next (s.refuse 0x18)

/-- UART_TX_SPACE (R149). -/
def execUartTxSpace (s : State) : Host.Outcome State Fault Refusal := .next (s.answer .OK (.len s.txrb.space))

/-- UART_RX_LEN (R150). -/
def execUartRxLen (s : State) : Host.Outcome State Fault Refusal := .next (s.answer .OK (.len s.uartRxLen))

/-- UART_GET_CODING (R151). -/
def execUartGetCoding (s : State) : Host.Outcome State Fault Refusal :=
  .next (s.answer .OK (.bytes (encodeCoding s.uart.coding)))

/-- EV_UART_TX_DMA_DONE (R141), enabled while a chunk is in flight and CTS is asserted (R156). -/
def execEvUartTxDmaDone (s : State) : Host.Outcome State Fault Refusal :=
  if s.uart.txBusy && s.pin.cts then s.conclude (s.txDmaDone.map State.taken) else .next s.waits

/-- EV_UART_RX_BYTE (R143); a reserved bit set is refused (30_encoding.md R83). -/
def execEvUartRxByte (arg : Half) (s : State) : Host.Outcome State Fault Refusal :=
  if legalRxArg arg then .next (s.rxByte (arg.extractLsb' 0 8)).taken else .next (s.refuse 0x21)

/-- EV_UART_PARITY_ERROR (R155). -/
def execEvUartParityError (s : State) : Host.Outcome State Fault Refusal :=
  .next ({ s with uart := { s.uart with parityErr := true } }.taken)

/-- EV_PIN_LEVELS (R147); a reserved bit set is refused (30_encoding.md R83). -/
def execEvPinLevels (arg : Half) (s : State) : Host.Outcome State Fault Refusal :=
  if legalPinArg arg then
    .next ({ s with pin := { s.pin with
      dsrW := arg.getLsbD 0, dcdW := arg.getLsbD 1, ctsW := arg.getLsbD 2 } }.taken)
  else .next (s.refuse 0x23)

end Sys2Proof.Machine
end

