-- ==== Sys2Proof/Machine/BusReset.lean ====
section
/-! DEFINITION. EV_BUS_RESET (70_reset_and_hazards.md R350, R352). -/

namespace Sys2Proof.Machine

/-- The registers EV_BUS_RESET writes (R352), after the abort of a TX chunk: all but the filter table, the input pins, the
observation logs and the marks. Storage bytes and the SETUP bytes, which have no reset value, stay (log 14). -/
def State.busRestart (s : State) : State :=
  { s.deconfigureAll with
    usb := Usb.reset
    ctrl := { Ctrl.reset with setup := s.ctrl.setup, buf := s.ctrl.buf }
    txrb := s.txrb.clear
    rb0 := s.rb0.clear
    rx := { s.rx with dmaRem := s.rx.cap, tail := 0, lastLen := 0, armed := false }
    uart := Uart.reset
    pin := { s.pin with dtr := false, rts := false }
    br := Bridge.reset }

/-- EV_BUS_RESET's effect (R352). -/
def State.busReset (s : State) : Except Stop State := s.abortChunk.map State.busRestart

/-- EV_BUS_RESET (R352). -/
def execEvBusReset (s : State) : Host.Outcome State Fault Refusal := s.conclude (s.busReset.map State.taken)

end Sys2Proof.Machine
end

