-- ==== Sys2Proof/Machine/UsbBridge.lean ====
section
/-! DEFINITION. The USB serial bridge (44_cdc_bridge.md): the CDC class handler, the set-configuration handler, the bulk-OUT
callback with the dispatch that runs it (42_endpoint_engine.md R190, R198), and the poll. -/

namespace Sys2Proof.Machine

/-! ## Filters and initialisation -/

/-- CTRL_REGISTER_FILTER's effect (43_control_transfer.md R238). -/
def State.registerFilter (s : State) (f : Filter) : Except Stop State :=
  if s.filters.length = Config.filterCap then .error (.misuse .FILTER_TABLE_FULL)
  else .ok { s with filters := s.filters ++ [f] }

/-- The filter of the CDC class handler (R280): class requests to an interface, either direction. -/
def cdcFilter : Filter := ⟨0x7F, 0x21, .cdcClass⟩

/-- BRIDGE_INIT's effect (R280). -/
def State.bridgeInit (s : State) : Except Stop State :=
  (s.registerFilter cdcFilter).map fun t => { t with br := Bridge.reset }

/-! ## CDC class requests (R281-R284) -/

/-- A request handler's result (43_control_transfer.md R223). -/
inductive HandlerResult where
  /-- HANDLED(resp). -/
  | handled (resp : List Byte)
  /-- NOT_SUPPORTED. -/
  | notSupported
  /-- CONTINUE: offered to the next handler. -/
  | pass
deriving DecidableEq, Repr

/-- `set_line_coding(req, data)` (R282). -/
def State.setLineCoding (s : State) (req : Request) (data : List Byte) : State × HandlerResult :=
  if req.wLength ≠ 7 ∨ data.length ≠ 7 then (s, .notSupported)
  else
    match s.uartConfigure data with
    | (t, .OK) => (t, .handled [])
    | (t, _) => (t, .notSupported)

/-- `set_control_line_state(req)` (R284): bit 0 of `wValue` is DTR, the other bits are ignored. -/
def State.setControlLineState (s : State) (req : Request) : State × HandlerResult :=
  if req.wLength ≠ 0 then (s, .notSupported) else (s.uartSetDtr (req.wValue.getLsbD 0), .handled [])

/-- `cdc(req, data)` (R281, R283). -/
def State.cdc (s : State) (req : Request) (data : List Byte) : State × HandlerResult :=
  if req.wIndex ≠ Config.commIf then (s, .pass)
  else if req.bmRequestType = 0x21 ∧ req.bRequest = 0x20 then s.setLineCoding req data
  else if req.bmRequestType = 0xA1 ∧ req.bRequest = 0x21 then (s, .handled (encodeCoding s.uart.coding))
  else if req.bmRequestType = 0x21 ∧ req.bRequest = 0x22 then s.setControlLineState req
  else (s, .pass)

/-! ## Configuration (R286) -/

/-- `set_config()` (R286); a fault of a sub-operation is the fault of the whole step. -/
def State.setConfig (s : State) : Except Stop State := do
  let s1 ← s.epSetup Config.epBulkOut Config.bufBulkOut .BULK
  let s2 ← s1.epSetup Config.epBulkIn Config.bufBulkIn .BULK
  let s3 ← s2.epSetup Config.epIntIn Config.bufIntIn .INTERRUPT
  let s4 ← s3.uartEnable
  pure { s4 with br := { s4.br with lastState := 0, pending := 0, zlpNeeded := false } }

/-! ## Flow coupling and the bulk-OUT callback (R287, R288) -/

/-- `update_pause()` (R288): pause below two packets' room, unpause from there on. -/
def State.updatePause (s : State) : Except Stop State :=
  let o := s.ep Config.epBulkOut
  if !o.cfg then .ok s
  else if s.txrb.space < 2 * o.mps ∧ o.paused = false then s.epPause Config.epBulkOut
  else if 2 * o.mps ≤ s.txrb.space ∧ o.paused = true then s.epUnpause Config.epBulkOut
  else .ok s

/-- `on_usb_data_received()` (R287). -/
def State.onUsbDataReceived (s : State) : Except Stop State :=
  match s.epReadPacket Config.epBulkOut Config.mpsBulk with
  | .error x => .error x
  | .ok (t, none) => .ok t
  | .ok (t, some b) => (t.uartTransmit b).1.updatePause

/-- The completion handler an endpoint stores (R286). -/
def State.runEpHandler (s : State) : Option EpHandler → Except Stop State
  | none => .ok s
  | some .onUsbDataReceived => s.onUsbDataReceived

/-- `dispatch(a)` (42_endpoint_engine.md R190): enter the callback, run the handler, leave it, then the deferred
synchronisations. -/
def State.dispatchCompletion (s : State) (a : EpAddr) : Except Stop State :=
  ((s.enterCallback a).runEpHandler (s.ep a).handler).map fun t => t.leaveCallback.syncAllPending

/-- EV_USB_IRQ is enabled (42_endpoint_engine.md R198). -/
def Endpoint.irqEnabled (e : Endpoint) : Bool := e.cfg && decide (0 < e.irq)

/-- EV_USB_IRQ's effect (R198). -/
def State.usbIrq (s : State) (a : EpAddr) : Except Stop State :=
  (s.setEp a { s.ep a with irq := (s.ep a).irq - 1 }).dispatchCompletion a

/-! ## The poll (R289-R295) -/

/-- `gather_flags()` (R295): the UART's error flags move into `pending`. -/
def State.gatherFlags (s : State) : State :=
  { s with
    uart := { s.uart with overrun := false, parityErr := false }
    br := { s.br with pending :=
      s.br.pending ||| (if s.uart.overrun then overrunBit else 0) ||| (if s.uart.parityErr then parityBit else 0) } }

/-- `notify()` (R291). -/
def State.notify (s : State) : Except Stop State :=
  let st := s.serialState
  if st ≠ s.br.lastState ∨ s.br.pending ≠ 0 then
    match s.epTransmit Config.epIntIn (serialStatePacket st) with
    | .error x => .error x
    | .ok (t, .OK) => .ok { t with br := { t.br with lastState := st, pending := 0 } }
    | .ok (t, _) => .ok t
  else .ok s

/-- The sending loop of R292: up to `n` packets of at most `mps` bytes, `left` bytes still to send; the new state and the
length of the last packet (`lastk`). -/
def State.sendPackets (s : State) (mps : Nat) : Nat → Nat → Nat → Except Stop (State × Nat)
  | 0, _, lastk => .ok (s, lastk)
  | n + 1, left, lastk =>
    if left = 0 then .ok (s, lastk)
    else
      let k := min mps left
      let r := s.uartCopyRx k
      match r.1.epTransmit Config.epBulkIn r.2 with
      | .error x => .error x
      | .ok (t, _) => State.sendPackets t mps n (left - k) k

/-- The coalescing test (R293): the batch is large enough or old enough. -/
def dueWith (minBatch maxAge avail : Nat) (now last : Word) : Bool :=
  decide (minBatch ≤ avail) || decide (maxAge ≤ (now - last).toNat)

/-- `rx_to_usb(now)` (R292). -/
def State.rxToUsb (s : State) (now : Word) : Except Stop State :=
  let i := s.ep Config.epBulkIn
  if !i.cfg then .ok s
  else if s.br.zlpNeeded then
    if i.inFlight < i.K then
      (s.epTransmit Config.epBulkIn []).map fun r =>
        { r.1 with br := { r.1.br with zlpNeeded := false, lastTxTime := now } }
    else .ok s
  else
    let avail := s.uartRxLen
    if avail = 0 then .ok s
    else if !dueWith Config.minBatch Config.maxAge avail now s.br.lastTxTime then .ok s
    else
      let free := i.K - i.inFlight
      if free = 0 then .ok s
      else
        (s.sendPackets i.mps free (min avail (free * i.mps)) 0).map fun r =>
          { r.1 with br := { r.1.br with lastTxTime := now, zlpNeeded := decide (r.2 = i.mps) } }

/-- BRIDGE_POLL's effect (R289). -/
def State.bridgePoll (s : State) (now : Word) : Except Stop State :=
  let s1 := s.uartPoll.gatherFlags
  if s1.usb.config = 0 then .ok s1
  else do
    let s2 ← s1.updatePause
    let s3 ← s2.notify
    s3.rxToUsb now

/-! ## Meanings -/

/-- EV_USB_IRQ (42_endpoint_engine.md R198). -/
def execEvUsbIrq (addr : Byte) (s : State) : Host.Outcome State Fault Refusal :=
  s.withEp 0x3D addr fun a =>
    if (s.ep a).irqEnabled then s.conclude ((s.usbIrq a).map State.taken) else .next s.waits

/-- CTRL_REGISTER_FILTER (43_control_transfer.md R238); a handler id other than 1 is refused (30_encoding.md R83). -/
def execCtrlRegisterFilter (handler value mask : Byte) (s : State) : Host.Outcome State Fault Refusal :=
  match filterHandlerOf handler with
  | some h => s.conclude ((s.registerFilter ⟨mask, value, h⟩).map (·.answer .OK .unit))
  | none => .next (s.refuse 0x43)

/-- BRIDGE_POLL (R289). -/
def execBridgePoll (now : Word) (s : State) : Host.Outcome State Fault Refusal :=
  s.conclude ((s.bridgePoll now).map (·.answer .OK .unit))

/-- BRIDGE_INIT (R280). -/
def execBridgeInit (s : State) : Host.Outcome State Fault Refusal :=
  s.conclude (s.bridgeInit.map (·.answer .OK .unit))

end Sys2Proof.Machine
end

