-- ==== Sys2Proof/Machine/ControlTransfer.lean ====
section
/-! DEFINITION. The endpoint-0 control transfer machine (43_control_transfer.md): request dispatch, the standard requests,
the data and status stages, and the meanings of EV_SETUP, EV_CTRL_OUT, EV_CTRL_IN_DONE, CTRL_READ_STATE. -/

namespace Sys2Proof.Machine

/-! ## Stage operations -/

/-- `stall()` (R233). -/
def State.stall (s : State) : State :=
  { s with
    ctrl := { s.ctrl with state := .STALLED, in0 := .EMPTY, onDone := none, zlp := false }
    stalls := s.stalls + 1 }

/-- `load_in0(b)` (R226). -/
def Ctrl.loadIn0 (c : Ctrl) (b : List Byte) : Ctrl := { c with in0 := .LOADED, in0Len := b.length, in0Data := b }

/-- `send_next_in()` (R226): the inserted zero-length packet, or the next chunk of the response. -/
def Ctrl.sendNextIn (c : Ctrl) : Ctrl :=
  if c.cursor = c.length ∧ c.zlp = true then
    { c.loadIn0 [] with zlp := false, state := .LAST_DATA_IN }
  else
    let k := min Config.mps0 (c.length - c.cursor)
    { c.loadIn0 ((c.resp.drop c.cursor).take k) with
      cursor := c.cursor + k
      state := if c.cursor + k = c.length ∧ c.zlp = false then .LAST_DATA_IN else .DATA_IN }

/-- `status_in()` (R227). -/
def Ctrl.statusIn (c : Ctrl) : Ctrl := { c.loadIn0 [] with state := .STATUS_IN }

/-- The decoded fields of the last SETUP packet. -/
def State.request (s : State) : Request := requestOf s.ctrl.setup

/-- The data stage of an IN request with `wLength` (R222, R228): the response truncated to what the host asked, and whether
a zero-length packet must follow it. -/
def Ctrl.startIn (c : Ctrl) (resp : List Byte) (wLength : Nat) : Ctrl :=
  let r := resp.take (min resp.length wLength)
  { c with
    resp := r
    length := r.length
    cursor := 0
    zlp := decide (0 < r.length) && decide (r.length < wLength) && decide (r.length % Config.mps0 = 0) }

/-- `complete_request(r)` (R222); CONTINUE, which dispatch never returns, is no definitive result and stalls. -/
def State.completeRequest (s : State) (r : HandlerResult) : State :=
  match r with
  | .handled resp =>
    if s.request.dirIn = true ∧ 0 < s.request.wLength.toNat then
      { s with ctrl := (s.ctrl.startIn resp s.request.wLength.toNat).sendNextIn }
    else { s with ctrl := s.ctrl.statusIn }
  | .notSupported => s.stall
  | .pass => s.stall

/-! ## Dispatch (R223, R224, R225) -/

/-- A filter entry matches a request type (R224). -/
def Filter.matchesType (f : Filter) (bmRequestType : Byte) : Bool := (bmRequestType &&& f.mask) = f.value

/-- The handler a filter entry names. -/
def State.runFilterHandler (s : State) (h : FilterHandler) (req : Request) (data : List Byte) : State × HandlerResult :=
  match h with
  | .cdcClass => s.cdc req data

/-- The filter loop of R223: the first definitive result wins. -/
def State.offerFilters (s : State) (req : Request) (data : List Byte) : List Filter → State × HandlerResult
  | [] => (s, .pass)
  | f :: fs =>
    if f.matchesType req.bmRequestType then
      match s.runFilterHandler f.handler req data with
      | (t, .pass) => State.offerFilters t req data fs
      | r => r
    else State.offerFilters s req data fs

/-! ## Standard requests (R240-R254) -/

/-- What an endpoint request's `wIndex[7:0]` names (R242, R243): endpoint 0, a configured endpoint, or nothing. -/
inductive EpTarget where
  | zero
  | configured (a : EpAddr)
  | absent
deriving DecidableEq, Repr

/-- The target of an endpoint request; endpoint 0 is any byte with `a[3:0] = 0`, as R242 writes it (log 18). -/
def State.epTarget (s : State) (b : Byte) : EpTarget :=
  if b.extractLsb' 0 4 = 0#4 then .zero
  else
    match epAddrOfByte b with
    | some a => if (s.ep a).cfg then .configured a else .absent
    | none => .absent

/-- The check of the interface requests: configured, and an interface of the configuration (R241). -/
def State.interfaceOk (s : State) (req : Request) : Bool :=
  decide (s.usb.config ≠ 0) && decide (req.wIndex.toNat < Config.numIf)

/-- A request with no effect that replies `resp` when `ok` holds. -/
def State.replyIf (s : State) (ok : Bool) (resp : List Byte) : State × HandlerResult :=
  (s, if ok then .handled resp else .notSupported)

/-- GET_STATUS of an endpoint (R242). -/
def State.getEpStatus (s : State) (req : Request) : State × HandlerResult :=
  match s.epTarget req.indexByte with
  | .zero => (s, .handled [0, 0])
  | .configured a => (s, .handled [if (s.ep a).halt then 1 else 0, 0])
  | .absent => (s, .notSupported)

/-- CLEAR_FEATURE (`set = false`, R243) or SET_FEATURE (`set = true`, R244) of an endpoint's halt. -/
def State.epFeature (s : State) (set : Bool) (req : Request) : Except Stop (State × HandlerResult) :=
  if req.wValue ≠ 0 then .ok (s, .notSupported)
  else
    match s.epTarget req.indexByte with
    | .zero => .ok (s, .handled [])
    | .configured a => (if set then s.epSetHalt a else s.epClearHalt a).map fun t => (t, .handled [])
    | .absent => .ok (s, .notSupported)

/-- SET_ADDRESS (R245): the address waits in `on_done` for the status stage. -/
def State.setAddressRequest (s : State) (req : Request) : State × HandlerResult :=
  if req.wValue.toNat ≤ 127 ∧ req.wLength = 0 then
    ({ s with ctrl := { s.ctrl with onDone := some (.setAddress (req.wValue.extractLsb' 0 7)) } }, .handled [])
  else (s, .notSupported)

/-- GET_DESCRIPTOR (R247). -/
def State.getDescriptor (s : State) (req : Request) : State × HandlerResult :=
  match Config.descriptors (req.wValue.extractLsb' 8 8) (req.wValue.extractLsb' 0 8) req.wIndex with
  | some bytes => (s, .handled bytes)
  | none => (s, .notSupported)

/-- SET_CONFIGURATION (R251). -/
def State.setConfiguration (s : State) (req : Request) : Except Stop (State × HandlerResult) :=
  let t := s.deconfigureAll
  if req.wValue = 0 then .ok ({ t with usb := { t.usb with config := 0 } }, .handled [])
  else if req.wValue = 1 then
    State.setConfig { t with usb := { t.usb with config := 1 } } |>.map fun u => (u, .handled [])
  else .ok (s, .notSupported)

/-- `standard(req, data)` (R225): served by exact `bmRequestType` and `bRequest`, all else NOT_SUPPORTED (R248, R254). -/
def State.standard (s : State) (req : Request) : Except Stop (State × HandlerResult) :=
  if req.rtype ≠ 0 then .ok (s, .notSupported)
  else
    match req.bmRequestType, req.bRequest with
    | 0x80#8, 0#8 => .ok (s, .handled [0, 0])
    | 0x81#8, 0#8 => .ok (s.replyIf (s.interfaceOk req) [0, 0])
    | 0x82#8, 0#8 => .ok (s.getEpStatus req)
    | 0x02#8, 1#8 => s.epFeature false req
    | 0x02#8, 3#8 => s.epFeature true req
    | 0x00#8, 5#8 => .ok (s.setAddressRequest req)
    | 0x80#8, 6#8 => .ok (s.getDescriptor req)
    | 0x00#8, 7#8 => .ok (s, .notSupported)
    | 0x80#8, 8#8 => .ok (s, .handled [s.usb.config])
    | 0x00#8, 9#8 => s.setConfiguration req
    | 0x81#8, 10#8 => .ok (s.replyIf (s.interfaceOk req) [0])
    | 0x01#8, 11#8 => .ok (s.replyIf (s.interfaceOk req && decide (req.wValue = 0)) [])
    | _, _ => .ok (s, .notSupported)

/-- `dispatch(req, data)` (R223): the filters in registration order, then standard handling. -/
def State.dispatchRequest (s : State) (req : Request) (data : List Byte) : Except Stop (State × HandlerResult) :=
  match s.offerFilters req data s.filters with
  | (t, .pass) => t.standard req
  | r => .ok r

/-- Dispatch the last SETUP's request with its data, and complete it (R221, R230). -/
def State.serveRequest (s : State) (data : List Byte) : Except Stop State :=
  (s.dispatchRequest s.request data).map fun r => r.1.completeRequest r.2

/-! ## Events -/

/-- The context a SETUP packet leaves before it is served (R221): any transfer in progress is aborted. -/
def Ctrl.beginSetup (c : Ctrl) (p : List Byte) : Ctrl :=
  { c with setup := p, in0 := .EMPTY, onDone := none, zlp := false, cursor := 0, resp := [] }

/-- The state in which more OUT data is awaited, `left` bytes being outstanding (R221, R230, R231). -/
def dataOutState (left : Nat) : CtrlState := if left ≤ Config.mps0 then .LAST_DATA_OUT else .DATA_OUT

/-- EV_SETUP's effect (R221, R232). -/
def State.setupPacket (s : State) (p : List Byte) : Except Stop State :=
  let s1 := { s with ctrl := s.ctrl.beginSetup p }
  let req := s1.request
  if req.dirIn = false ∧ 0 < req.wLength.toNat then
    if Config.ctrlBufCap < req.wLength.toNat then .ok s1.stall
    else .ok { s1 with ctrl := { s1.ctrl with length := req.wLength.toNat, state := dataOutState req.wLength.toNat } }
  else s1.serveRequest []

/-- EV_CTRL_OUT in an OUT data stage (R230, R231). -/
def State.ctrlOutData (s : State) (data : List Byte) : Except Stop State :=
  if s.ctrl.length < s.ctrl.cursor + data.length then .ok s.stall
  else
    match checkSpace .cbuf s.ctrl.cursor data.length with
    | .error x => .error x
    | .ok () =>
      let c1 := { s.ctrl with buf := s.ctrl.buf.writeBytes s.ctrl.cursor data, cursor := s.ctrl.cursor + data.length }
      let s1 := { s with ctrl := c1 }
      if c1.cursor = c1.length then s1.serveRequest (c1.buf.readBytes 0 c1.length)
      else if data.length < Config.mps0 then .ok s1.stall
      else .ok { s1 with ctrl := { c1 with state := dataOutState (c1.length - c1.cursor) } }

/-- EV_CTRL_OUT's effect (R230, R236, R237). -/
def State.ctrlOut (s : State) (data : List Byte) : Except Stop State :=
  match s.ctrl.state with
  | .DATA_OUT => s.ctrlOutData data
  | .LAST_DATA_OUT => s.ctrlOutData data
  | .STATUS_OUT => .ok { s with ctrl := { s.ctrl with state := .IDLE } }
  | .DATA_IN => .ok { s with ctrl := { s.ctrl with in0 := .EMPTY, state := .IDLE, zlp := false } }
  | .LAST_DATA_IN => .ok { s with ctrl := { s.ctrl with in0 := .EMPTY, state := .IDLE, zlp := false } }
  | .STATUS_IN => .ok s.stall
  | .IDLE => .ok s
  | .STALLED => .ok s

/-- EV_CTRL_OUT is enabled for a packet of `n` bytes (R230). -/
def State.ctrlOutEnabled (s : State) (n : Nat) : Bool := decide (s.ctrl.state ≠ .STALLED) && decide (n ≤ Config.mps0)

/-- The action of a completed transfer (R246). -/
def Usb.complete (u : Usb) : Option Action → Usb
  | some (.setAddress a) => { u with address := a }
  | none => u

/-- EV_CTRL_IN_DONE's effect (R229, R246). -/
def State.ctrlInDone (s : State) : State :=
  let s1 := { s.emitHost Config.ep0In s.ctrl.in0Data with ctrl := { s.ctrl with in0 := .EMPTY } }
  match s.ctrl.state with
  | .DATA_IN => { s1 with ctrl := s1.ctrl.sendNextIn }
  | .LAST_DATA_IN => { s1 with ctrl := { s1.ctrl with state := .STATUS_OUT } }
  | .STATUS_IN =>
    { s1 with ctrl := { s1.ctrl with state := .IDLE, onDone := none }, usb := s1.usb.complete s1.ctrl.onDone }
  | .IDLE => s1
  | .STALLED => s1
  | .DATA_OUT => s1
  | .LAST_DATA_OUT => s1
  | .STATUS_OUT => s1

/-! ## Meanings -/

/-- EV_SETUP (R221). -/
def execEvSetup (packet : List Byte) (s : State) : Host.Outcome State Fault Refusal :=
  s.conclude ((s.setupPacket packet).map State.taken)

/-- EV_CTRL_OUT (R230). -/
def execEvCtrlOut (data : List Byte) (s : State) : Host.Outcome State Fault Refusal :=
  if s.ctrlOutEnabled data.length then s.conclude ((s.ctrlOut data).map State.taken) else .next s.waits

/-- EV_CTRL_IN_DONE (R229), enabled while the endpoint-0 IN slot is loaded. -/
def execEvCtrlInDone (s : State) : Host.Outcome State Fault Refusal :=
  if s.ctrl.in0 = .LOADED then .next s.ctrlInDone.taken else .next s.waits

/-- CTRL_READ_STATE (R239). -/
def execCtrlReadState (s : State) : Host.Outcome State Fault Refusal := .next (s.answer .OK (.u32 s.ctrlView))

end Sys2Proof.Machine
end

