-- ==== Sys2Proof/Machine/Dispatch.lean ====
section
/-! DEFINITION. The meaning of each operation: one arm for each row of spec/opcode_table.json. -/

namespace Sys2Proof.Machine

def exec (i : Instr) (s : State) : Host.Outcome State Fault Refusal :=
  match i with
  | .rbClear ring => Sys2Proof.Machine.execRbClear ring s
  | .rbEnqueue ring data => Sys2Proof.Machine.execRbEnqueue ring data s
  | .rbDequeue ring limit => Sys2Proof.Machine.execRbDequeue ring limit s
  | .rbAvailableSpace ring => Sys2Proof.Machine.execRbAvailableSpace ring s
  | .rbOccupiedLen ring => Sys2Proof.Machine.execRbOccupiedLen ring s
  | .rbContigLen ring => Sys2Proof.Machine.execRbContigLen ring s
  | .uartConfigure coding => Sys2Proof.Machine.execUartConfigure coding s
  | .uartEnable => Sys2Proof.Machine.execUartEnable s
  | .uartTransmit data => Sys2Proof.Machine.execUartTransmit data s
  | .uartPoll => Sys2Proof.Machine.execUartPoll s
  | .uartCopyRx limit => Sys2Proof.Machine.execUartCopyRx limit s
  | .uartHasOverrun => Sys2Proof.Machine.execUartHasOverrun s
  | .uartGetDsr => Sys2Proof.Machine.execUartGetDsr s
  | .uartGetDcd => Sys2Proof.Machine.execUartGetDcd s
  | .uartSetDtr arg => Sys2Proof.Machine.execUartSetDtr arg s
  | .uartTxSpace => Sys2Proof.Machine.execUartTxSpace s
  | .uartRxLen => Sys2Proof.Machine.execUartRxLen s
  | .uartGetCoding => Sys2Proof.Machine.execUartGetCoding s
  | .evUartTxDmaDone => Sys2Proof.Machine.execEvUartTxDmaDone s
  | .evUartRxByte arg => Sys2Proof.Machine.execEvUartRxByte arg s
  | .evUartParityError => Sys2Proof.Machine.execEvUartParityError s
  | .evPinLevels arg => Sys2Proof.Machine.execEvPinLevels arg s
  | .epSetup addr size type => Sys2Proof.Machine.execEpSetup addr size type s
  | .epTransmitPacket addr data => Sys2Proof.Machine.execEpTransmitPacket addr data s
  | .epWriteAvail addr => Sys2Proof.Machine.execEpWriteAvail addr s
  | .epReadPacket addr limit => Sys2Proof.Machine.execEpReadPacket addr limit s
  | .epPause addr => Sys2Proof.Machine.execEpPause addr s
  | .epUnpause addr => Sys2Proof.Machine.execEpUnpause addr s
  | .epSetHalt addr => Sys2Proof.Machine.execEpSetHalt addr s
  | .epClearHalt addr => Sys2Proof.Machine.execEpClearHalt addr s
  | .evBusReset => Sys2Proof.Machine.execEvBusReset s
  | .evEpInDone addr => Sys2Proof.Machine.execEvEpInDone addr s
  | .evEpOut addr data => Sys2Proof.Machine.execEvEpOut addr data s
  | .epDeconfigureAll => Sys2Proof.Machine.execEpDeconfigureAll s
  | .epReadStatus sel => Sys2Proof.Machine.execEpReadStatus sel s
  | .evUsbIrq addr => Sys2Proof.Machine.execEvUsbIrq addr s
  | .evSetup packet => Sys2Proof.Machine.execEvSetup packet s
  | .evCtrlOut data => Sys2Proof.Machine.execEvCtrlOut data s
  | .evCtrlInDone => Sys2Proof.Machine.execEvCtrlInDone s
  | .ctrlRegisterFilter handler value mask => Sys2Proof.Machine.execCtrlRegisterFilter handler value mask s
  | .ctrlReadState => Sys2Proof.Machine.execCtrlReadState s
  | .bridgePoll now => Sys2Proof.Machine.execBridgePoll now s
  | .bridgeInit => Sys2Proof.Machine.execBridgeInit s

end Sys2Proof.Machine
end

