-- ==== Sys2Proof/Machine/Step.lean ====
section
/-! DEFINITION. One step of the block: the next command of the global order (60_exceptions.md R333, log 1) is fetched and
executed. -/

namespace Sys2Proof.Machine

/-- One step. A faulted block takes none (60_exceptions.md R325). A command word with no meaning is refused and the run goes
on (R327). -/
def step (s : State) : Host.Outcome State Fault Refusal :=
  match s.fault with
  | some c => .fault (.quiescent c)
  | none =>
    match s.fetch with
    | .instr i rest => exec i (s.consume rest)
    | .unknownOpcode op rest => .next ((s.consume rest).refuse op)
    | .incomplete => .refused .incompleteCommand
    | .nothing => .refused .noCommand

/-- The operation whose bits are `w` is the next command. -/
def State.withFetchWord (s : State) (nbits w : Nat) : State := s.issueTableWord nbits w

end Sys2Proof.Machine
end

