-- ==== Sys2Proof/Machine/Commands.lean ====
section
/-! DEFINITION. The agent of each operation (60_exceptions.md R330), the pseudo-operations (30_encoding.md R87) and the
assembler line (R86). -/

namespace Sys2Proof.Machine

/-! ## Agents (R330) -/

/-- The agents that issue steps. -/
inductive Agent where
  /-- Firmware software context. -/
  | SW
  /-- USB peripheral and host. -/
  | HW_USB
  /-- UART DMA engines and receiver. -/
  | HW_DMA
  /-- Environment: the pins' far end. -/
  | ENV
deriving DecidableEq, Repr

/-- The agent whose row of R330 lists an operation. -/
def agentOf : Instr → Agent
  | .rbClear _ => .SW
  | .rbEnqueue _ _ => .SW
  | .rbDequeue _ _ => .SW
  | .rbAvailableSpace _ => .SW
  | .rbOccupiedLen _ => .SW
  | .rbContigLen _ => .SW
  | .uartConfigure _ => .SW
  | .uartEnable => .SW
  | .uartTransmit _ => .SW
  | .uartPoll => .SW
  | .uartCopyRx _ => .SW
  | .uartHasOverrun => .SW
  | .uartGetDsr => .SW
  | .uartGetDcd => .SW
  | .uartSetDtr _ => .SW
  | .uartTxSpace => .SW
  | .uartRxLen => .SW
  | .uartGetCoding => .SW
  | .evUartTxDmaDone => .HW_DMA
  | .evUartRxByte _ => .HW_DMA
  | .evUartParityError => .HW_DMA
  | .evPinLevels _ => .ENV
  | .epSetup _ _ _ => .SW
  | .epTransmitPacket _ _ => .SW
  | .epWriteAvail _ => .SW
  | .epReadPacket _ _ => .SW
  | .epPause _ => .SW
  | .epUnpause _ => .SW
  | .epSetHalt _ => .SW
  | .epClearHalt _ => .SW
  | .evBusReset => .HW_USB
  | .evEpInDone _ => .HW_USB
  | .evEpOut _ _ => .HW_USB
  | .epDeconfigureAll => .SW
  | .epReadStatus _ => .SW
  | .evUsbIrq _ => .HW_USB
  | .evSetup _ => .HW_USB
  | .evCtrlOut _ => .HW_USB
  | .evCtrlInDone => .HW_USB
  | .ctrlRegisterFilter _ _ _ => .SW
  | .ctrlReadState => .SW
  | .bridgePoll _ => .SW
  | .bridgeInit => .SW

/-! ## Pseudo-operations (R87) -/

/-- The OUT packets that carry `data`, each of at most `MPS0` bytes; `n` bounds their number. -/
def ctrlOutChunks : Nat → List Byte → List Instr
  | 0, _ => []
  | _ + 1, [] => []
  | n + 1, b :: bs =>
    .evCtrlOut ((b :: bs).take Config.mps0) :: ctrlOutChunks n ((b :: bs).drop Config.mps0)

/-- `CTRL_WRITE req, data`. -/
def ctrlWrite (req data : List Byte) : List Instr := .evSetup req :: (ctrlOutChunks data.length data ++ [.evCtrlInDone])

/-- `CTRL_NODATA req`. -/
def ctrlNoData (req : List Byte) : List Instr := [.evSetup req, .evCtrlInDone]

/-- `CTRL_READ req, k`. -/
def ctrlRead (req : List Byte) (k : Nat) : List Instr :=
  .evSetup req :: (List.replicate k .evCtrlInDone ++ [.evCtrlOut []])

/-- `HOST_SEND ep, data`. -/
def hostSend (addr : Byte) (data : List Byte) : List Instr := [.evEpOut addr data]

/-- The bytes of a sequence of operations, in issue order. -/
def encodeAll (is : List Instr) : List Byte := is.flatMap encode

/-! ## The assembler line (R86) -/

/-- A hexadecimal digit. -/
def hexDigit (n : Nat) : Char := "0123456789ABCDEF".toList.getD n '0'

/-- A byte as two hexadecimal digits. -/
def hexByte (b : Byte) : List Char := [hexDigit (b.toNat / 16), hexDigit (b.toNat % 16)]

/-- A selector, `0x82`. -/
def asmSel (b : Byte) : List Char := '0' :: 'x' :: hexByte b

/-- Decimal digits, least significant first; `n` bounds their number. -/
def decimalRev : Nat → Nat → List Char
  | 0, _ => []
  | n + 1, v => hexDigit (v % 10) :: (if v / 10 = 0 then [] else decimalRev n (v / 10))

/-- A decimal number. -/
def asmNat (v : Nat) : List Char := (decimalRev 10 v).reverse

/-- A payload, `[41 42 43]`. -/
def asmBytes (bs : List Byte) : List Char := '[' :: (List.intercalate [' '] (bs.map hexByte) ++ [']'])

/-- One line of R86: `MNEMONIC [sel] [, arg] [: payload]`. -/
def asmLine (mnemonic : String) (sel : Option Byte) (arg : Option Nat) (payload : Option (List Char)) : List Char :=
  mnemonic.toList
    ++ (match sel with | some b => ' ' :: asmSel b | none => [])
    ++ (match sel, arg with
        | some _, some n => ',' :: ' ' :: asmNat n
        | none, some n => ' ' :: asmNat n
        | _, none => [])
    ++ (match payload with | some p => [' ', ':', ' '] ++ p | none => [])

/-- The assembler line of an operation. -/
def asmOf : Instr → List Char
  | .rbClear r => asmLine "RB_CLEAR" (some r) none none
  | .rbEnqueue r d => asmLine "RB_ENQUEUE" (some r) (some d.length) (some (asmBytes d))
  | .rbDequeue r n => asmLine "RB_DEQUEUE" (some r) (some n.toNat) none
  | .rbAvailableSpace r => asmLine "RB_AVAILABLE_SPACE" (some r) none none
  | .rbOccupiedLen r => asmLine "RB_OCCUPIED_LEN" (some r) none none
  | .rbContigLen r => asmLine "RB_CONTIG_LEN" (some r) none none
  | .uartConfigure p => asmLine "UART_CONFIGURE" none none (some (asmBytes p))
  | .uartEnable => asmLine "UART_ENABLE" none none none
  | .uartTransmit d => asmLine "UART_TRANSMIT" none (some d.length) (some (asmBytes d))
  | .uartPoll => asmLine "UART_POLL" none none none
  | .uartCopyRx n => asmLine "UART_COPY_RX" none (some n.toNat) none
  | .uartHasOverrun => asmLine "UART_HAS_OVERRUN" none none none
  | .uartGetDsr => asmLine "UART_GET_DSR" none none none
  | .uartGetDcd => asmLine "UART_GET_DCD" none none none
  | .uartSetDtr a => asmLine "UART_SET_DTR" none (some a.toNat) none
  | .uartTxSpace => asmLine "UART_TX_SPACE" none none none
  | .uartRxLen => asmLine "UART_RX_LEN" none none none
  | .uartGetCoding => asmLine "UART_GET_CODING" none none none
  | .evUartTxDmaDone => asmLine "EV_UART_TX_DMA_DONE" none none none
  | .evUartRxByte a => asmLine "EV_UART_RX_BYTE" none (some a.toNat) none
  | .evUartParityError => asmLine "EV_UART_PARITY_ERROR" none none none
  | .evPinLevels a => asmLine "EV_PIN_LEVELS" none (some a.toNat) none
  | .epSetup a n t => asmLine "EP_SETUP" (some a) (some (t.toNat * 16384 + n.toNat)) none
  | .epTransmitPacket a d => asmLine "EP_TRANSMIT_PACKET" (some a) (some d.length) (some (asmBytes d))
  | .epWriteAvail a => asmLine "EP_WRITE_AVAIL" (some a) none none
  | .epReadPacket a n => asmLine "EP_READ_PACKET" (some a) (some n.toNat) none
  | .epPause a => asmLine "EP_PAUSE" (some a) none none
  | .epUnpause a => asmLine "EP_UNPAUSE" (some a) none none
  | .epSetHalt a => asmLine "EP_SET_HALT" (some a) none none
  | .epClearHalt a => asmLine "EP_CLEAR_HALT" (some a) none none
  | .evBusReset => asmLine "EV_BUS_RESET" none none none
  | .evEpInDone a => asmLine "EV_EP_IN_DONE" (some a) none none
  | .evEpOut a d => asmLine "EV_EP_OUT" (some a) (some d.length) (some (asmBytes d))
  | .epDeconfigureAll => asmLine "EP_DECONFIGURE_ALL" none none none
  | .epReadStatus n => asmLine "EP_READ_STATUS" (some n) none none
  | .evUsbIrq a => asmLine "EV_USB_IRQ" (some a) none none
  | .evSetup p => asmLine "EV_SETUP" none none (some (asmBytes p))
  | .evCtrlOut d => asmLine "EV_CTRL_OUT" none (some d.length) (some (asmBytes d))
  | .evCtrlInDone => asmLine "EV_CTRL_IN_DONE" none none none
  | .ctrlRegisterFilter h v m => asmLine "CTRL_REGISTER_FILTER" (some h) (some (m.toNat * 256 + v.toNat)) none
  | .ctrlReadState => asmLine "CTRL_READ_STATE" none none none
  | .bridgePoll now => asmLine "BRIDGE_POLL" none none (some ("now=".toList ++ asmNat now.toNat))
  | .bridgeInit => asmLine "BRIDGE_INIT" none none none

end Sys2Proof.Machine
end

