-- ==== Sys2Proof/Safety.lean ====
section
/-! DEFINITION. What the claims are stated with: runs, unmarked states, the bytes a ring or the RX window holds, and the
invariants that every step keeps. -/

namespace Sys2Proof.Machine

/-! ## Runs -/

/-- No fault and no refusal has been recorded (10_state.md R56). -/
def State.Unmarked (s : State) : Prop := s.fault = none ∧ s.refused = none

/-- The operations `is` executed one after the other, each giving a next state without a fault mark; none when one does
not (60_exceptions.md R325, R333). -/
def execAll : List Instr → State → Option State
  | [], s => some s
  | i :: is, s =>
    match exec i s with
    | .next t => if t.fault = none then execAll is t else none
    | _ => none

/-- The operations `is` executed one after the other, each of them a step that exists: enabled, and without a fault (R326,
R325); none otherwise. -/
def execTaken : List Instr → State → Option State
  | [], s => some s
  | i :: is, s =>
    match exec i s with
    | .next t => if t.fault = none ∧ t.reply ≠ .notEnabled then execTaken is t else none
    | _ => none

/-- The first byte of an operation's encoding. -/
def opcodeOf (i : Instr) : Byte := (encode i).getD 0 0

/-- `i` is refused in `s`: nothing changes but the mark and the reply (R327). -/
def Refuses (i : Instr) (s : State) : Prop :=
  exec i s = .next { s with refused := some (opcodeOf i), reply := .refused (opcodeOf i) }

/-- `i` faults with code `c` in `s`: nothing changes but the mark and the reply (R325). -/
def Faults (c : FaultCode) (i : Instr) (s : State) : Prop :=
  exec i s = .next { s with fault := some c, reply := .faulted c }

/-- `i` is not enabled in `s`: nothing changes but the reply (R326; log 3). -/
def Waits (i : Instr) (s : State) : Prop := exec i s = .next { s with reply := .notEnabled }

/-- `i` is one of the operations that clear the rings, because they are, or can contain, UART_ENABLE or EV_BUS_RESET
(70_reset_and_hazards.md R353). -/
def Restarts (i : Instr) : Prop :=
  i = .uartEnable ∨ i = .evBusReset ∨ (∃ p, i = .evSetup p) ∨ (∃ d, i = .evCtrlOut d)

/-- The request is SET_CONFIGURATION 1, whose handler performs UART_ENABLE (43_control_transfer.md R251, 44_cdc_bridge.md
R286). -/
def Request.setsConfiguration1 (r : Request) : Prop := r.bmRequestType = 0x00 ∧ r.bRequest = 9 ∧ r.wValue = 1

/-- Executed in `s`, `i` clears the rings: it is UART_ENABLE, EV_BUS_RESET, or the control event that dispatches
SET_CONFIGURATION 1: its SETUP when it has no data stage, else the packet that completes its data (43_control_transfer.md
R221, R230). -/
def RestartsIn (s : State) (i : Instr) : Prop :=
  i = .uartEnable ∨ i = .evBusReset ∨
  (∃ p, i = .evSetup p ∧ (requestOf p).setsConfiguration1 ∧ (requestOf p).wLength = 0) ∨
  (∃ d, i = .evCtrlOut d ∧ s.request.setsConfiguration1 ∧ s.ctrl.cursor + d.length = s.ctrl.length ∧
    (s.ctrl.state = .DATA_OUT ∨ s.ctrl.state = .LAST_DATA_OUT))

/-- The opcodes of 30_encoding.md R82. -/
def opcodes : List Byte :=
  [0x01, 0x02, 0x03, 0x04, 0x05, 0x06, 0x10, 0x11, 0x12, 0x13, 0x14, 0x15, 0x16, 0x17, 0x18, 0x19, 0x1A, 0x1B]
    ++ [0x20, 0x21, 0x22, 0x23, 0x30, 0x31, 0x32, 0x33, 0x34, 0x35, 0x36, 0x37, 0x38, 0x39, 0x3A, 0x3B, 0x3C, 0x3D]
    ++ [0x40, 0x41, 0x42, 0x43, 0x44, 0x50, 0x51]

/-! ## Storage (20_memory.md R60) -/

/-- Every listed byte has an address below `n`. -/
def Memory.within (m : Memory) (n : Nat) : Bool := m.all fun c => decide (c.1 < n)

/-- Every storage space is in canonical form and inside its size, and no capacity has changed (10_state.md R21). -/
structure State.StorageInv (s : State) : Prop where
  rb0_cap : s.rb0.cap = Config.rb0Cap
  txrb_cap : s.txrb.cap = Config.rbCapTx
  rx_cap : s.rx.cap = Config.rbCapRx
  canonical : ∀ sp, (s.space sp).wf = true
  inside : ∀ sp, (s.space sp).within sp.size = true

/-! ## Rings (40_ring_buffer.md) -/

/-- Both indices are in range (R118). -/
structure Ring.InRange (r : Ring) : Prop where
  head_lt : r.head < r.cap
  tail_lt : r.tail < r.cap

/-- The bytes a ring holds, oldest first. -/
def Ring.contents (r : Ring) : List Byte := (List.range r.occ).map fun k => r.storage.read ((r.tail + k) % r.cap)

/-- `r'` is `r` after its first `n` bytes of `data` were appended: they lie at `head`, `head + 1`, … modulo the capacity, and
nothing else has changed (R110, R118). -/
structure Ring.Appended (r r' : Ring) (data : List Byte) (n : Nat) : Prop where
  cap_eq : r'.cap = r.cap
  tail_eq : r'.tail = r.tail
  head_eq : r'.head = (r.head + n) % r.cap
  stored : ∀ k, k < n → r'.storage.read ((r.head + k) % r.cap) = data.getD k 0
  kept : ∀ a, (∀ k, k < n → a ≠ (r.head + k) % r.cap) → r'.storage.read a = r.storage.read a

/-- An operation on a ring value (R110, R116). -/
inductive RingOp where
  | put (data : List Byte)
  | take (limit : Nat)
deriving DecidableEq, Repr

/-- The ring after a sequence of operations, and all the bytes that `take` returned, in order. -/
def ringRun : Ring → List RingOp → Ring × List Byte
  | r, [] => (r, [])
  | r, .put d :: ops => ringRun (r.put d).1 ops
  | r, .take n :: ops =>
    let rest := ringRun (r.take n).1 ops
    (rest.1, (r.take n).2 ++ rest.2)

/-- Every `put` of the sequence fits: the bytes stored never exceed `cap - 1` (R116). -/
def ringFits : Ring → List RingOp → Prop
  | _, [] => True
  | r, .put d :: ops => r.occ + d.length ≤ r.cap - 1 ∧ ringFits (r.put d).1 ops
  | r, .take n :: ops => ringFits (r.take n).1 ops

/-- All the bytes given to the `put`s of a sequence, in order. -/
def ringGiven : List RingOp → List Byte
  | [] => []
  | .put d :: ops => d ++ ringGiven ops
  | .take _ :: ops => ringGiven ops

/-! ## The serial side (10_state.md R21-R28) -/

/-- The RX window's registers are in range (R23). -/
structure RxWindow.InRange (x : RxWindow) : Prop where
  cap_eq : x.cap = Config.rbCapRx
  rem_pos : 1 ≤ x.dmaRem
  rem_le : x.dmaRem ≤ Config.rbCapRx
  tail_lt : x.tail < Config.rbCapRx
  lastLen_lt : x.lastLen < Config.rbCapRx

/-- The unread bytes of the RX window, oldest first. -/
def RxWindow.contents (x : RxWindow) : List Byte := (List.range x.len).map fun k => x.storage.read ((x.tail + k) % x.cap)

/-- The ring indices, the RX window and the UART registers agree with each other (R21-R28; 41_uart_engine.md R135, R139). -/
structure State.SerialInv (s : State) : Prop where
  rb0_cap : s.rb0.cap = Config.rb0Cap
  rb0 : s.rb0.InRange
  txrb_cap : s.txrb.cap = Config.rbCapTx
  txrb : s.txrb.InRange
  rx : s.rx.InRange
  busy : s.uart.txBusy = true ↔ 0 < s.uart.txChunk
  chunk : s.uart.txChunk ≤ s.txrb.contig
  legal : legalCoding s.uart.coding = true
  hwm : s.uart.rxHwm = highWaterMark s.uart.coding.baud
  effBaud : s.uart.effBaud = Config.effectiveBaud s.uart.coding.baud

/-! ## The endpoints (10_state.md R36-R39; 42_endpoint_engine.md R195, R197) -/

/-- The slot states of a direction (R36). -/
def SlotState.legalFor (st : SlotState) : Dir → Prop
  | .IN => st = .EMPTY ∨ st = .LOADED
  | .OUT => st = .FREE ∨ st = .FULL ∨ st = .HELD

/-- The slot holds a packet. -/
def SlotState.busy (st : SlotState) : Bool := decide (st = .LOADED) || decide (st = .FULL)

/-- The slot whose packet is taken next: by the host for IN, by software for OUT. -/
def Endpoint.oldest (e : Endpoint) : Dir → Fin 2
  | .IN => e.hwNext
  | .OUT => e.swNext

/-- The slot the next packet goes to: from software for IN, from the host for OUT. -/
def Endpoint.newest (e : Endpoint) : Dir → Fin 2
  | .IN => e.swNext
  | .OUT => e.hwNext

/-- One endpoint of direction `d` between two steps. -/
structure Endpoint.Inv (d : Dir) (e : Endpoint) : Prop where
  idle : e.cfg = false → e = Endpoint.reset d
  mps_pos : e.cfg = true → 1 ≤ e.mps
  mps_le : e.mps ≤ mpsOf e.type
  dbl_bulk : e.dbl = true → e.type = .BULK
  kind0 : e.slot0.state.legalFor d
  kind1 : e.slot1.state.legalFor d
  len0 : e.slot0.len ≤ e.mps
  len1 : e.slot1.len ≤ e.mps
  single : e.dbl = false →
    e.hwNext = 0 ∧ e.swNext = 0 ∧ e.slot1.state = (Slot.reset d).state ∧ e.slot1.len = 0
  same : e.dbl = true → e.hwNext = e.swNext → e.slot0.state.busy = e.slot1.state.busy
  split : e.dbl = true → e.hwNext ≠ e.swNext →
    (e.slot (e.oldest d)).state.busy = true ∧ (e.slot (e.newest d)).state.busy = false
  stat : e.hwstat = e.wantStat
  synced : e.syncPending = false
  held0 : e.slot0.state = .HELD → e.paused = true
  held1 : e.slot1.state = .HELD → e.paused = true
  inOnly : d = .IN → e.paused = false ∧ e.irq = 0

/-- The endpoints and packet memory between two steps. -/
structure State.EndpointInv (s : State) : Prop where
  eps : ∀ a : EpAddr, (s.ep a).Inv a.dir
  handler : ∀ a : EpAddr, (s.ep a).cfg = true → (s.ep a).handler = handlerFor a
  callback : s.usb.inCallback = none
  pma_lo : pmaFirst ≤ s.usb.pmaNext
  pma_hi : s.usb.pmaNext ≤ Config.pmaBytes
  slot0 : ∀ a : EpAddr, (s.ep a).cfg = true →
    pmaFirst ≤ (s.ep a).slot0.pma ∧ (s.ep a).slot0.pma + (s.ep a).mps ≤ s.usb.pmaNext
  slot1 : ∀ a : EpAddr, (s.ep a).cfg = true → (s.ep a).dbl = true →
    pmaFirst ≤ (s.ep a).slot1.pma ∧ (s.ep a).slot1.pma + (s.ep a).mps ≤ s.usb.pmaNext

/-- The slot numbered `i` is one of the `K` slots. -/
def Endpoint.hasSlot (e : Endpoint) (i : Fin 2) : Prop := i = 0 ∨ e.dbl = true

/-- No two slots of configured endpoints share a byte of packet memory (42_endpoint_engine.md R173). -/
def State.SlotsDisjoint (s : State) : Prop :=
  ∀ (a b : EpAddr) (i j : Fin 2), (s.ep a).cfg = true → (s.ep b).cfg = true → (s.ep a).hasSlot i → (s.ep b).hasSlot j →
    (a, i) ≠ (b, j) →
    ((s.ep a).slot i).pma + (s.ep a).mps ≤ ((s.ep b).slot j).pma ∨
      ((s.ep b).slot j).pma + (s.ep b).mps ≤ ((s.ep a).slot i).pma

/-- How many of an OUT endpoint's slots hold a packet that no callback has read. -/
def Endpoint.landed (e : Endpoint) : Nat := e.count .FULL

/-- Every pending completion interrupt has its packet in a slot, so `irq` is in its range 0..2 (R36). -/
def State.IrqBound (s : State) : Prop := ∀ n, (s.ep ⟨.OUT, n⟩).irq ≤ (s.ep ⟨.OUT, n⟩).landed

/-- `r` is `e` after `sync` (42_endpoint_engine.md R184): HELD slots of `0 .. K-1` are FREE when the endpoint is not paused,
the status is the wanted one, nothing is pending, and nothing else has changed. -/
structure Endpoint.Synced (e r : Endpoint) : Prop where
  rest : r = { e with slot0 := r.slot0, slot1 := r.slot1, hwstat := e.wantStat, syncPending := false }
  paused : e.paused = true → r.slot0 = e.slot0 ∧ r.slot1 = e.slot1
  beyond : e.dbl = false → r.slot1 = e.slot1
  held : e.paused = false → ∀ i, e.hasSlot i → (e.slot i).state = .HELD → r.slot i = { e.slot i with state := .FREE }
  other : ∀ i, (e.slot i).state ≠ .HELD → r.slot i = e.slot i

/-- The packets an IN endpoint holds for the host, oldest first (42_endpoint_engine.md R195). -/
def State.queued (s : State) (a : EpAddr) : List (List Byte) :=
  let e := s.ep a
  match e.inFlight with
  | 0 => []
  | 1 => [s.slotBytes (e.slot e.hwIdx)]
  | _ => [s.slotBytes (e.slot e.hwIdx), s.slotBytes (e.slot (e.succ e.hwIdx))]

/-! ## The control machine (43_control_transfer.md R231, R234) -/

/-- An endpoint-0 IN packet waits for the host in these states (R234). -/
def CtrlState.sendsIn : CtrlState → Bool
  | .DATA_IN => true
  | .LAST_DATA_IN => true
  | .STATUS_IN => true
  | .IDLE => false
  | .STALLED => false
  | .DATA_OUT => false
  | .LAST_DATA_OUT => false
  | .STATUS_OUT => false

/-- The control context between two steps: the four clauses of R234, then what they rest on. -/
structure State.ControlInv (s : State) : Prop where
  loaded : s.ctrl.in0 = .LOADED ↔ s.ctrl.state.sendsIn = true
  cursor_le : s.ctrl.cursor ≤ s.ctrl.length
  out_cap : s.ctrl.state = .DATA_OUT ∨ s.ctrl.state = .LAST_DATA_OUT → s.ctrl.length ≤ Config.ctrlBufCap
  onDone : s.ctrl.onDone ≠ none → s.ctrl.state = .STATUS_IN
  in0_len : s.ctrl.in0Len = s.ctrl.in0Data.length
  in0_le : s.ctrl.in0Len ≤ Config.mps0
  resp : s.ctrl.state = .DATA_IN ∨ s.ctrl.state = .LAST_DATA_IN → s.ctrl.resp.length = s.ctrl.length
  declared : s.ctrl.state = .DATA_OUT ∨ s.ctrl.state = .LAST_DATA_OUT →
    s.request.dirIn = false ∧ s.ctrl.length = s.request.wLength.toNat
  more : s.ctrl.state = .DATA_OUT → Config.mps0 < s.ctrl.length - s.ctrl.cursor
  last : s.ctrl.state = .LAST_DATA_OUT →
    s.ctrl.cursor < s.ctrl.length ∧ s.ctrl.length - s.ctrl.cursor ≤ Config.mps0

/-! ## The bridge (10_state.md R34, R47-R49; 30_encoding.md R93) -/

/-- Register ranges of the device and the bridge. -/
structure State.BridgeInv (s : State) : Prop where
  config : s.usb.config = 0 ∨ s.usb.config = 1
  filters : s.filters.length ≤ Config.filterCap
  pending : s.br.pending &&& 0xFF9F#16 = 0
  lastState : s.br.lastState &&& 0xFF9C#16 = 0

/-- Every invariant at once. -/
structure State.Inv (s : State) : Prop where
  storage : s.StorageInv
  serial : s.SerialInv
  endpoints : s.EndpointInv
  control : s.ControlInv
  bridge : s.BridgeInv

/-- A SERIAL_STATE notification is due: the state differs from the last one sent, or a flag is pending (44_cdc_bridge.md R290,
R291). -/
def State.NotifyDue (s : State) : Prop :=
  s.br.pending ||| (if s.pin.dcdW then 0 else 1) ||| (if s.pin.dsrW then 0 else 2) ≠ s.br.lastState ∨ s.br.pending ≠ 0

/-! ## Flow control (44_cdc_bridge.md R298) -/

/-- The TX ring has room for every bulk OUT packet that can still reach it: two packets while the endpoint is not paused,
and those already landed while it is (R298). -/
def State.FlowRoom (s : State) : Prop :=
  (s.ep Config.epBulkOut).cfg = true →
    if (s.ep Config.epBulkOut).paused = true then
      (s.ep Config.epBulkOut).landed * (s.ep Config.epBulkOut).mps ≤ s.txrb.space
    else 2 * (s.ep Config.epBulkOut).mps ≤ s.txrb.space

end Sys2Proof.Machine
end

