-- ==== Sys2Proof/Certificates/Slice0/Obligations.lean ====
section
/-! DEFINITION. The statements for the provers, one `def Obligations.<Name> : Prop` each; OBLIGATIONS.json lists them. -/

section
open Sys2Proof Sys2Proof.Machine

/-! ## Encoding and the step -/

/-- O1. Every operation that a command and its payload can carry is read back from its bytes, whatever follows it
(30_encoding.md R80, R81, R82). -/
def Obligations.DecodeEncode : Prop :=
  ∀ (i : Instr) (rest : List Byte), i.wf = true → decode (encode i ++ rest) = .instr i rest

/-- O2. A few commands written out byte by byte from R80-R82 decode to the operations they stand for. -/
def Obligations.DecodeWords : Prop :=
  decode [0x02, 0x00, 0x03, 0x00, 0x41, 0x42, 0x43] = .instr (.rbEnqueue 0 [0x41, 0x42, 0x43]) [] ∧
  decode [0x14, 0x00, 0x34, 0x12] = .instr (.uartCopyRx 0x1234) [] ∧
  decode [0x23, 0x00, 0x04, 0x00] = .instr (.evPinLevels 4) [] ∧
  decode [0x30, 0x82, 0x80, 0x80] = .instr (.epSetup 0x82 128 2) [] ∧
  decode [0x30, 0x83, 0x10, 0xC0] = .instr (.epSetup 0x83 16 3) [] ∧
  decode [0x3A, 0x01, 0x02, 0x00, 0x61, 0x62, 0x3D, 0x01, 0x00, 0x00]
    = .instr (.evEpOut 0x01 [0x61, 0x62]) [0x3D, 0x01, 0x00, 0x00] ∧
  decode [0x40, 0x00, 0x00, 0x00, 0x80, 0x06, 0x00, 0x01, 0x00, 0x00, 0x12, 0x00]
    = .instr (.evSetup [0x80, 0x06, 0x00, 0x01, 0x00, 0x00, 0x12, 0x00]) [] ∧
  decode [0x43, 0x01, 0x21, 0x7F] = .instr (.ctrlRegisterFilter 1 0x21 0x7F) [] ∧
  decode [0x50, 0x00, 0x00, 0x00, 0x0A, 0x01, 0x00, 0x02] = .instr (.bridgePoll 0x0200010A) []

/-- O3. What is illegal is refused with no state change but the mark; a legal address that names an unconfigured endpoint,
or the wrong direction, is a fault for an operation and no step for an event (30_encoding.md R83, R84; 42_endpoint_engine.md
R170). That an unknown command word takes its four bytes off the stream is the model's choice (log 1, log 5), and so is what
the last clause says at endpoint 0, which the model reads as an endpoint that is not configured (log 15). -/
def Obligations.IllegalCommands : Prop :=
  (∀ (s : State) (op sel lo hi : Byte) (rest : List Byte), s.fault = none → s.inbox = op :: sel :: lo :: hi :: rest →
    op ∉ opcodes → step s = .next { s with inbox := rest, refused := some op, reply := .refused op }) ∧
  (∀ (s : State) (ring : Byte), ring ≠ 0 →
    Refuses (.rbClear ring) s ∧ (∀ d, Refuses (.rbEnqueue ring d) s) ∧ (∀ n, Refuses (.rbDequeue ring n) s) ∧
    Refuses (.rbAvailableSpace ring) s ∧ Refuses (.rbOccupiedLen ring) s ∧ Refuses (.rbContigLen ring) s) ∧
  (∀ (s : State) (a : Byte), a.extractLsb' 4 3 ≠ 0#3 ∨ Config.numEp ≤ (a.extractLsb' 0 4).toNat →
    (∀ n t, Refuses (.epSetup a n t) s) ∧ (∀ d, Refuses (.epTransmitPacket a d) s) ∧ Refuses (.epWriteAvail a) s ∧
    (∀ n, Refuses (.epReadPacket a n) s) ∧ Refuses (.epPause a) s ∧ Refuses (.epUnpause a) s ∧
    Refuses (.epSetHalt a) s ∧ Refuses (.epClearHalt a) s ∧
    Refuses (.evEpInDone a) s ∧ (∀ d, Refuses (.evEpOut a d) s) ∧ Refuses (.evUsbIrq a) s) ∧
  (∀ (s : State) (a : Byte) (n : BitVec 14), Refuses (.epSetup a n 0) s ∧ Refuses (.epSetup a n 1) s) ∧
  (∀ (s : State) (h v m : Byte), h ≠ 1 → Refuses (.ctrlRegisterFilter h v m) s) ∧
  (∀ (s : State) (sel : Byte), Config.numEp ≤ (sel.extractLsb' 0 4).toNat → Refuses (.epReadStatus sel) s) ∧
  (∀ (s : State) (arg : Half),
    (arg.extractLsb' 1 15 ≠ 0#15 → Refuses (.uartSetDtr arg) s) ∧
    (arg.extractLsb' 3 13 ≠ 0#13 → Refuses (.evPinLevels arg) s) ∧
    (arg.extractLsb' 8 8 ≠ 0#8 → Refuses (.evUartRxByte arg) s)) ∧
  (∀ (s : State) (a : EpAddr),
    (a.dir = .OUT ∨ (s.ep a).cfg = false →
      (∀ d, Faults .EP_NOT_CONFIGURED (.epTransmitPacket (epAddrToByte a) d) s) ∧
      Faults .EP_NOT_CONFIGURED (.epWriteAvail (epAddrToByte a)) s) ∧
    (a.dir = .IN ∨ (s.ep a).cfg = false →
      (∀ n, Faults .EP_NOT_CONFIGURED (.epReadPacket (epAddrToByte a) n) s) ∧
      Faults .EP_NOT_CONFIGURED (.epPause (epAddrToByte a)) s ∧
      Faults .EP_NOT_CONFIGURED (.epUnpause (epAddrToByte a)) s) ∧
    ((s.ep a).cfg = false →
      Faults .EP_NOT_CONFIGURED (.epSetHalt (epAddrToByte a)) s ∧
      Faults .EP_NOT_CONFIGURED (.epClearHalt (epAddrToByte a)) s ∧
      Waits (.evEpInDone (epAddrToByte a)) s ∧ (∀ d, Waits (.evEpOut (epAddrToByte a) d) s) ∧
      Waits (.evUsbIrq (epAddrToByte a)) s))

/-- O4. In an unfaulted state whose next bytes decode to an operation, a step is that operation, executed with its bytes
taken; a faulted state takes no step (60_exceptions.md R325, R333; the command stream is log 1). -/
def Obligations.StepRunsDecoded : Prop :=
  (∀ (s : State) (i : Instr) (rest : List Byte), s.fault = none → decode s.inbox = .instr i rest →
    step s = exec i { s with inbox := rest }) ∧
  (∀ (s : State) (c : FaultCode), s.fault = some c → step s = .fault (.quiescent c))

/-- O5. A step that records a fault or a refusal changes nothing else, and no step clears a mark (60_exceptions.md R325,
R327; 10_state.md R56). -/
def Obligations.MarksChangeAlone : Prop :=
  ∀ (i : Instr) (s t : State), exec i s = .next t →
    (t.fault = s.fault ∧ t.refused = s.refused) ∨
    (∃ c, t = { s with fault := some c, reply := .faulted c }) ∨
    (∃ op, t = { s with refused := some op, reply := .refused op })

/-- O6. Every operation of the SW agent is enabled in every state (60_exceptions.md R326). -/
def Obligations.SoftwareNeverWaits : Prop :=
  ∀ (i : Instr) (s t : State), agentOf i = .SW → exec i s = .next t → t.reply ≠ .notEnabled

/-- O7. From a state that keeps the invariants, every operation gives a next state: no rule forms an address outside a
storage space (20_memory.md R60). -/
def Obligations.EveryOperationSteps : Prop :=
  ∀ (i : Instr) (s : State), s.Inv → ∃ t, exec i s = .next t

/-- O8. No host event, no DMA event and no pin event raises a fault (60_exceptions.md R328). -/
def Obligations.EventsNeverFault : Prop :=
  ∀ (i : Instr) (s : State), s.Inv → agentOf i ≠ .SW → ∃ t, exec i s = .next t ∧ t.fault = s.fault

/-! ## Invariants of every step -/

/-- O9. Every step keeps storage canonical and inside its spaces, and the capacities constant (10_state.md R21;
20_memory.md R60). -/
def Obligations.StorageInvKept : Prop := ∀ s t : State, s.StorageInv → step s = .next t → t.StorageInv

/-- O10. Every step keeps the ring indices, the RX window and the UART registers in agreement (10_state.md R21-R28). -/
def Obligations.SerialInvKept : Prop := ∀ s t : State, s.SerialInv → step s = .next t → t.SerialInv

/-- O11. Every step keeps the endpoints' invariant: slot states and order, the hardware status, no deferred
synchronisation, no callback running, slots inside allocated packet memory (10_state.md R36, R38; 42_endpoint_engine.md
R197; 60_exceptions.md R335); and every pending completion interrupt has its packet in a slot, so `irq` stays in 0..2 (R36;
44_cdc_bridge.md R298; that EP_SETUP clears it is log 16). -/
def Obligations.EndpointInvKept : Prop :=
  (∀ s t : State, s.EndpointInv → step s = .next t → t.EndpointInv) ∧
  (∀ s t : State, s.EndpointInv → s.IrqBound → step s = .next t → t.IrqBound) ∧
  (∀ (s : State) (n : Fin Config.numEp), s.IrqBound → (s.ep ⟨.OUT, n⟩).irq ≤ 2)

/-- O12. Every step keeps the control context's invariants (43_control_transfer.md R234, R231). -/
def Obligations.ControlInvKept : Prop := ∀ s t : State, s.ControlInv → step s = .next t → t.ControlInv

/-- O13. Every step keeps the configuration value, the filter table and the two serial-state bitmaps in range (10_state.md
R34, R47; 30_encoding.md R93). -/
def Obligations.BridgeInvKept : Prop := ∀ s t : State, s.BridgeInv → step s = .next t → t.BridgeInv

/-- O14. Every step keeps the packet slots of configured endpoints apart (42_endpoint_engine.md R173). -/
def Obligations.SlotsDisjointKept : Prop :=
  ∀ s t : State, s.EndpointInv → s.SlotsDisjoint → step s = .next t → t.SlotsDisjoint

/-- O15. The reset state has every invariant. The storage and the SETUP bytes at reset are the model's choice (log 12,
log 13). -/
def Obligations.ResetInv : Prop :=
  State.reset.Inv ∧ State.reset.SlotsDisjoint ∧ State.reset.FlowRoom ∧ State.reset.IrqBound

/-- O16. What power-on leaves: the values of the power-on column of R350 that the rules it names state, R36's reset column
written out for each direction. That endpoint 0 reads as such an endpoint is the model's reading (log 15). -/
def Obligations.ResetState : Prop :=
  State.reset.rb0.head = 0 ∧ State.reset.rb0.tail = 0 ∧ State.reset.rb0.cap = Config.rb0Cap ∧
  State.reset.txrb.head = 0 ∧ State.reset.txrb.tail = 0 ∧ State.reset.txrb.cap = Config.rbCapTx ∧
  State.reset.rx.cap = Config.rbCapRx ∧ State.reset.rx.armed = false ∧ State.reset.rx.dmaRem = Config.rbCapRx ∧
  State.reset.rx.tail = 0 ∧ State.reset.rx.lastLen = 0 ∧
  State.reset.uart.coding = ⟨115200, .eight, .one, .none⟩ ∧ State.reset.uart.rxHwm = 967 ∧
  State.reset.uart.effBaud = Config.effectiveBaud 115200 ∧ State.reset.uart.txBusy = false ∧
  State.reset.uart.txChunk = 0 ∧ State.reset.uart.overrun = false ∧ State.reset.uart.parityErr = false ∧
  State.reset.uart.enabled = false ∧ State.reset.pin.dtr = false ∧ State.reset.pin.rts = false ∧
  State.reset.usb = ⟨0, 0, none, 2 * Config.mps0⟩ ∧
  (∀ a : EpAddr, State.reset.ep a = Endpoint.reset a.dir) ∧
  Endpoint.reset .OUT = ⟨false, .BULK, 0, false, ⟨.FREE, 0, 0⟩, ⟨.FREE, 0, 0⟩, 0, 0, false, .DISABLED, false, false,
    none, 0⟩ ∧
  Endpoint.reset .IN = ⟨false, .BULK, 0, false, ⟨.EMPTY, 0, 0⟩, ⟨.EMPTY, 0, 0⟩, 0, 0, false, .DISABLED, false, false,
    none, 0⟩ ∧
  (∀ d, (Endpoint.reset d).K = 1) ∧
  State.reset.ctrl.cursor = 0 ∧ State.reset.ctrl.length = 0 ∧ State.reset.ctrl.resp = [] ∧
  State.reset.ctrl.zlp = false ∧ State.reset.ctrl.state = .IDLE ∧ State.reset.ctrl.onDone = none ∧
  State.reset.ctrl.in0 = .EMPTY ∧ State.reset.filters = [] ∧ State.reset.br = ⟨0, 0, 0, false⟩ ∧
  State.reset.wireOut = [] ∧ State.reset.hostIn = [] ∧ State.reset.stalls = 0 ∧
  State.reset.fault = none ∧ State.reset.refused = none

/-! ## Rings -/

/-- O17. RB_CLEAR and the three ring reads, which write nothing, and what the counts are (40_ring_buffer.md R110, R111, R112,
R115, R119; 10_state.md R22). -/
def Obligations.RingClearAndReads : Prop :=
  (∀ s : State,
    exec (.rbClear 0) s = .next { s with rb0 := { s.rb0 with head := 0, tail := 0 }, reply := .result .OK .unit } ∧
    exec (.rbOccupiedLen 0) s = .next { s with reply := .result .OK (.u16 (BitVec.ofNat 16 s.rb0.occ)) } ∧
    exec (.rbAvailableSpace 0) s = .next { s with reply := .result .OK (.len s.rb0.space) } ∧
    exec (.rbContigLen 0) s = .next { s with reply := .result .OK (.len s.rb0.contig) }) ∧
  (∀ r : Ring, r.InRange →
    r.occ = (if r.tail ≤ r.head then r.head - r.tail else r.head + r.cap - r.tail) ∧
    r.occ ≤ r.cap - 1 ∧ r.space + r.occ = r.cap - 1 ∧
    (r.occ = 0 ↔ r.head = r.tail) ∧ (r.occ = r.cap - 1 ↔ (r.head + 1) % r.cap = r.tail) ∧
    r.contig = (if r.tail ≤ r.head then r.head - r.tail else r.cap - r.tail) ∧ r.contig ≤ r.occ) ∧
  (∀ r : Ring, r.cap ≠ 0 → ({ r with head := 0, tail := 0 } : Ring).occ = 0)

/-- O18. RB_ENQUEUE accepts the first `min(n, space)` bytes, puts them at the head modulo the capacity, and changes nothing
else; a full ring accepts none and stays as it is (40_ring_buffer.md R113, R117). -/
def Obligations.RingEnqueue : Prop :=
  (∀ (s : State) (data : List Byte), ∃ r, exec (.rbEnqueue 0 data) s =
      .next { s with rb0 := r, reply := .result .OK (.len (min data.length s.rb0.space)) } ∧
    (s.rb0.InRange → s.rb0.Appended r data (min data.length s.rb0.space) ∧ r.InRange ∧ r.occ ≤ r.cap - 1)) ∧
  (∀ (r : Ring) (d : List Byte), r.InRange → r.occ = r.cap - 1 → r.put d = (r, 0))

/-- O19. RB_DEQUEUE returns the oldest `min(max, occ)` bytes in order and moves the tail past them; storage and head stay
(40_ring_buffer.md R114, R118). -/
def Obligations.RingDequeue : Prop :=
  ∀ (s : State) (limit : Half), ∃ bs,
    exec (.rbDequeue 0 limit) s = .next { s with
      rb0 := { s.rb0 with tail := (s.rb0.tail + min limit.toNat s.rb0.occ) % s.rb0.cap }
      reply := .result .OK (.bytes bs) } ∧
    (s.rb0.InRange → bs = s.rb0.contents.take limit.toNat ∧
      ({ s.rb0 with tail := (s.rb0.tail + min limit.toNat s.rb0.occ) % s.rb0.cap } : Ring).InRange)

/-- O20. The round-trip law: what `take`s return is a prefix of what `put`s were given, all of it once the ring is drained
(40_ring_buffer.md R116). -/
def Obligations.RingRoundTrip : Prop :=
  ∀ (r : Ring) (ops : List RingOp), r.InRange → r.occ = 0 → ringFits r ops →
    (ringRun r ops).2 <+: ringGiven ops ∧ ((ringRun r ops).1.occ = 0 → (ringRun r ops).2 = ringGiven ops)

/-- O21. Each ring index has its one writer, apart from the operations that restart the rings (20_memory.md R70;
70_reset_and_hazards.md R358). -/
def Obligations.RingIndexWriters : Prop :=
  ∀ (i : Instr) (s t : State), exec i s = .next t →
    (t.txrb.tail ≠ s.txrb.tail → i = .evUartTxDmaDone ∨ Restarts i) ∧
    (t.txrb.head ≠ s.txrb.head → (∃ d, i = .uartTransmit d) ∨ (∃ a, i = .evUsbIrq a) ∨ Restarts i) ∧
    (t.rx.dmaRem ≠ s.rx.dmaRem → (∃ b, i = .evUartRxByte b) ∨ Restarts i) ∧
    (t.rx.tail ≠ s.rx.tail →
      i = .uartPoll ∨ (∃ n, i = .uartCopyRx n) ∨ (∃ n, i = .bridgePoll n) ∨ Restarts i) ∧
    (t.rb0.head ≠ s.rb0.head → (∃ r d, i = .rbEnqueue r d) ∨ (∃ r, i = .rbClear r) ∨ i = .evBusReset) ∧
    (t.rb0.tail ≠ s.rb0.tail → (∃ r n, i = .rbDequeue r n) ∨ (∃ r, i = .rbClear r) ∨ i = .evBusReset)

/-! ## UART engine -/

/-- O22. How a line coding is decoded, encoded and judged (41_uart_engine.md R131, R135; 30_encoding.md R92). -/
def Obligations.LineCodings : Prop :=
  (∀ (b0 b1 b2 b3 f p d : Byte) (c : LineCoding), decodeCoding [b0, b1, b2, b3, f, p, d] = some c ↔
    c.baud.toNat = b0.toNat + 256 * b1.toNat + 65536 * b2.toNat + 16777216 * b3.toNat ∧
    ((f = 0 ∧ c.stopBits = .one) ∨ (f = 1 ∧ c.stopBits = .onePointFive) ∨ (f = 2 ∧ c.stopBits = .two)) ∧
    ((p = 0 ∧ c.parity = .none) ∨ (p = 1 ∧ c.parity = .odd) ∨ (p = 2 ∧ c.parity = .even)) ∧
    ((d = 7 ∧ c.dataBits = .seven) ∨ (d = 8 ∧ c.dataBits = .eight) ∨ (d = 9 ∧ c.dataBits = .nine))) ∧
  (∀ c : LineCoding, (encodeCoding c).length = 7 ∧ decodeCoding (encodeCoding c) = some c) ∧
  (∀ (n9 : Bool) (c : LineCoding), legalCodingWith n9 c = true ↔
    (c.parity = .none ∧ (c.dataBits = .eight ∨ (c.dataBits = .nine ∧ n9 = true))) ∨
    ((c.parity = .odd ∨ c.parity = .even) ∧ (c.dataBits = .seven ∨ c.dataBits = .eight))) ∧
  (∀ c : LineCoding, legalCoding c = legalCodingWith Config.allow9N c)

/-- O23. UART_CONFIGURE applies a legal coding, with its clamped rate and its high-water mark, and nothing else; any other
payload changes no state (41_uart_engine.md R136). -/
def Obligations.UartConfigure : Prop :=
  (∀ (s : State) (p : List Byte) (c : LineCoding), decodeCoding p = some c → legalCoding c = true →
    exec (.uartConfigure p) s = .next { s with
      uart := { s.uart with
        coding := c, effBaud := Config.effectiveBaud c.baud, rxHwm := Config.rbCapRx - c.baud.toNat / 2000 }
      reply := .result .OK .unit }) ∧
  (∀ (s : State) (p : List Byte), (∀ c, decodeCoding p = some c → legalCoding c = false) →
    exec (.uartConfigure p) s = .next { s with reply := .result .INVALID_CODING .unit }) ∧
  (∀ baud : Word, Config.baudMin ≤ (Config.effectiveBaud baud).toNat ∧
    (Config.effectiveBaud baud).toNat ≤ Config.baudMax)

/-- O24. UART_TRANSMIT appends the accepted bytes, masked for 7 data bits, and starts a chunk when the engine is enabled and
idle; and what the chunk cap is: the rate over CHUNK_DIV, but CHUNK_MIN below it and CHUNK_MAX above it, for any three constants
(41_uart_engine.md R138, R139, R142). -/
def Obligations.UartTransmit : Prop :=
  (∀ (s : State) (data : List Byte), ∃ r,
    exec (.uartTransmit data) s = .next { s with
      txrb := r
      uart :=
        if s.uart.enabled = true ∧ s.uart.txBusy = false ∧ 0 < r.occ then
          { s.uart with
            txChunk := min r.contig
              (min (max (s.uart.coding.baud.toNat / Config.chunkDiv) Config.chunkMin) Config.chunkMax)
            txBusy := true }
        else s.uart
      reply := .result .OK (.len (min data.length s.txrb.space)) } ∧
    (s.txrb.InRange → s.txrb.Appended r
      (if s.uart.coding.dataBits = .seven then data.map (fun b => b &&& 0x7F#8) else data)
      (min data.length s.txrb.space))) ∧
  (∀ (div lo hi : Nat) (baud : Word), 0 < div → lo ≤ hi →
    (baud.toNat / div < lo → chunkCapWith div lo hi baud = lo) ∧
    (lo ≤ baud.toNat / div → baud.toNat / div ≤ hi → chunkCapWith div lo hi baud = baud.toNat / div) ∧
    (hi < baud.toNat / div → chunkCapWith div lo hi baud = hi)) ∧
  (∀ baud : Word, chunkCap baud = chunkCapWith Config.chunkDiv Config.chunkMin Config.chunkMax baud) ∧
  1 ≤ Config.chunkMin ∧ Config.chunkMin ≤ Config.chunkMax ∧
  chunkCapWith 1000 16 256 115200 = 115 ∧ chunkCapWith 1000 16 256 9600 = 16

/-- O25. UART_ENABLE clears both rings, arms the window, drops DTR and RTS and enables the engine; a chunk in progress is
aborted after some prefix of it has reached the wire (41_uart_engine.md R137). -/
def Obligations.UartEnable : Prop :=
  (∀ s : State, s.uart.txBusy = false →
    exec .uartEnable s = .next { s with
      txrb := { s.txrb with head := 0, tail := 0 }
      rx := { s.rx with tail := 0, lastLen := 0, dmaRem := Config.rbCapRx, armed := true }
      uart := { s.uart with txChunk := 0, txBusy := false, enabled := true }
      pin := { s.pin with dtr := false, rts := false }
      reply := .result .OK .unit }) ∧
  (∀ s : State, s.uart.txBusy = true → s.txrb.tail + s.uart.txChunk ≤ Config.rbCapTx →
    ∃ k, k ≤ s.uart.txChunk ∧ exec .uartEnable s = .next { s with
      txrb := { s.txrb with head := 0, tail := 0 }
      rx := { s.rx with tail := 0, lastLen := 0, dmaRem := Config.rbCapRx, armed := true }
      uart := { s.uart with txChunk := 0, txBusy := false, enabled := true }
      pin := { s.pin with dtr := false, rts := false }
      wireOut := s.wireOut ++ (List.range k).map (fun j => s.readByte .txrb (s.txrb.tail + j))
      draws := s.draws + 1
      reply := .result .OK .unit })

/-- O26. UART_POLL restarts transmission, samples the fill level with overrun detection, and drives RTS (41_uart_engine.md
R139, R140, R142). -/
def Obligations.UartPoll : Prop :=
  ∀ s : State,
    let start := s.uart.enabled = true ∧ s.uart.txBusy = false ∧ 0 < s.txrb.occ
    let cap := min (max (s.uart.coding.baud.toNat / Config.chunkDiv) Config.chunkMin) Config.chunkMax
    let lost := s.rx.armed = true ∧ s.rx.len < s.rx.lastLen
    exec .uartPoll s = .next { s with
      uart := { s.uart with
        txChunk := if start then min s.txrb.contig cap else s.uart.txChunk
        txBusy := if start then true else s.uart.txBusy
        overrun := if lost then true else s.uart.overrun }
      rx := { s.rx with
        tail := if lost then s.rx.head else s.rx.tail
        lastLen := if s.rx.armed = false then s.rx.lastLen else if lost then 0 else s.rx.len }
      pin := { s.pin with
        rts := decide (s.rx.armed = true ∧ (if lost then 0 else s.rx.len) < s.uart.rxHwm) }
      reply := .result .OK .unit }

/-- O27. The overrun detection law: after a sample that left `L` unread, `d` arriving bytes make the next poll flag an overrun
exactly when `(L + d) mod RB_CAP_RX < L`; and a sample leaves `last_len` equal to the unread length (41_uart_engine.md
R154). -/
def Obligations.OverrunLaw : Prop :=
  (∀ (s : State) (bytes : List Byte), s.rx.InRange → s.rx.armed = true → s.rx.lastLen = s.rx.len →
    s.uart.overrun = false → s.fault = none →
    ∃ t u, execAll (bytes.map fun b => .evUartRxByte (b.setWidth 16)) s = some t ∧ exec .uartPoll t = .next u ∧
      (u.uart.overrun = true ↔ (s.rx.lastLen + bytes.length) % Config.rbCapRx < s.rx.lastLen)) ∧
  (∀ s t : State, s.rx.InRange → s.rx.armed = true → exec .uartPoll s = .next t → t.rx.lastLen = t.rx.len) ∧
  (∀ (s t : State) (limit : Half), s.rx.InRange → s.rx.armed = true → exec (.uartCopyRx limit) s = .next t →
    t.rx.lastLen = t.rx.len)

/-- O28. EV_UART_RX_BYTE writes the byte at the head and moves the head one on, whatever is unread; a window that is not
armed changes nothing (41_uart_engine.md R143). -/
def Obligations.UartRxByte : Prop :=
  (∀ (s : State) (b : Byte), s.rx.armed = false →
    exec (.evUartRxByte (b.setWidth 16)) s = .next { s with reply := .event }) ∧
  (∀ (s : State) (b : Byte), s.rx.armed = true → ∃ m,
    exec (.evUartRxByte (b.setWidth 16)) s = .next { s with
      rx := { s.rx with
        storage := m, dmaRem := if s.rx.dmaRem = 1 then Config.rbCapRx else s.rx.dmaRem - 1 }
      reply := .event } ∧
    m.read s.rx.head = b ∧ (∀ a, a ≠ s.rx.head → m.read a = s.readByte .rxrb a)) ∧
  (∀ x : RxWindow, x.InRange →
    ({ x with dmaRem := if x.dmaRem = 1 then Config.rbCapRx else x.dmaRem - 1 } : RxWindow).head
      = (x.head + 1) % Config.rbCapRx)

/-- O29. UART_COPY_RX drains the oldest `min(len, max)` bytes, masked for 7 data bits, and samples what is left
(41_uart_engine.md R144). -/
def Obligations.UartCopyRx : Prop :=
  (∀ (s : State) (limit : Half), s.rx.armed = false →
    exec (.uartCopyRx limit) s = .next { s with reply := .result .OK (.bytes []) }) ∧
  (∀ (s : State) (limit : Half), s.rx.armed = true → ∃ bs,
    exec (.uartCopyRx limit) s = .next { s with
      rx := { s.rx with
        tail := (s.rx.tail + min s.rx.len limit.toNat) % s.rx.cap
        lastLen := s.rx.len - min s.rx.len limit.toNat }
      reply := .result .OK (.bytes bs) } ∧
    (s.rx.InRange → bs =
      if s.uart.coding.dataBits = .seven then (s.rx.contents.take limit.toNat).map (fun b => b &&& 0x7F#8)
      else s.rx.contents.take limit.toNat))

/-- O30. The flag, pin and accessor operations of the UART (41_uart_engine.md R145-R151, R155). -/
def Obligations.UartAccessors : Prop :=
  ∀ s : State,
    exec .uartHasOverrun s = .next { s with
      uart := { s.uart with overrun := false }, reply := .result .OK (.flag s.uart.overrun) } ∧
    exec .uartGetDsr s = .next { s with reply := .result .OK (.flag (!s.pin.dsrW)) } ∧
    exec .uartGetDcd s = .next { s with reply := .result .OK (.flag (!s.pin.dcdW)) } ∧
    (∀ level : Bool, exec (.uartSetDtr (if level then 1 else 0)) s = .next { s with
      pin := { s.pin with dtr := level }, reply := .result .OK .unit }) ∧
    exec .uartTxSpace s = .next { s with reply := .result .OK (.len s.txrb.space) } ∧
    exec .uartRxLen s = .next { s with
      reply := .result .OK (.len (if s.rx.armed = true then s.rx.len else 0)) } ∧
    exec .uartGetCoding s = .next { s with reply := .result .OK (.bytes (encodeCoding s.uart.coding)) } ∧
    exec .evUartParityError s = .next { s with uart := { s.uart with parityErr := true }, reply := .event } ∧
    (∀ dsr dcd cts : Bool,
      exec (.evPinLevels ((if dsr then 1 else 0) + (if dcd then 2 else 0) + (if cts then 4 else 0))) s = .next { s with
        pin := { s.pin with dsrW := dsr, dcdW := dcd, ctsW := cts }, reply := .event })

/-- O31. EV_UART_TX_DMA_DONE, enabled while a chunk is in flight and CTS is asserted, puts the chunk on the wire, moves the
tail past it and starts the next chunk (41_uart_engine.md R141, R142, R156). -/
def Obligations.UartTxDmaDone : Prop :=
  (∀ s : State, s.uart.txBusy = false ∨ s.pin.ctsW = true → Waits .evUartTxDmaDone s) ∧
  (∀ s : State, s.uart.txBusy = true → s.pin.ctsW = false → s.txrb.tail + s.uart.txChunk ≤ Config.rbCapTx →
    let r : Ring := { s.txrb with tail := (s.txrb.tail + s.uart.txChunk) % s.txrb.cap }
    let again := s.uart.enabled = true ∧ 0 < r.occ
    let cap := min (max (s.uart.coding.baud.toNat / Config.chunkDiv) Config.chunkMin) Config.chunkMax
    exec .evUartTxDmaDone s = .next { s with
      txrb := r
      wireOut := s.wireOut ++ (List.range s.uart.txChunk).map (fun j => s.readByte .txrb (s.txrb.tail + j))
      uart := { s.uart with
        txChunk := if again then min r.contig cap else 0
        txBusy := decide again }
      reply := .event })

/-- O32. No operation but UART_ENABLE, EV_BUS_RESET and the control event that dispatches SET_CONFIGURATION 1 loses, repeats or
reorders a transmitted byte: the wire log followed by the ring's contents only grows at its end, and only by UART_TRANSMIT and
the bulk-OUT callback (41_uart_engine.md R137, R138, R141; 44_cdc_bridge.md R286, R299). -/
def Obligations.TxPathKeepsOrder : Prop :=
  ∀ (i : Instr) (s t : State), s.SerialInv → exec i s = .next t → ¬ RestartsIn s i →
    ∃ added, t.wireOut ++ t.txrb.contents = s.wireOut ++ s.txrb.contents ++ added ∧
      (added ≠ [] → (∃ d, i = .uartTransmit d) ∨ (∃ a, i = .evUsbIrq a))

/-! ## Endpoint engine -/

/-- O33. EP_SETUP: its three faults in order, and the endpoint and the packet memory it leaves (42_endpoint_engine.md R171,
R172, R173; 44_cdc_bridge.md R286 for the handler). That `irq` is cleared, and that a second slot's offset is written only
when there is one, is the model's reading (log 16). -/
def Obligations.EpSetup : Prop :=
  ∀ (s : State) (a : EpAddr) (size : BitVec 14) (ty : EpType),
    let i : Instr := .epSetup (epAddrToByte a) size (epTypeBits ty)
    let mps := min size.toNat (match ty with | .BULK => Config.mpsBulk | .INTERRUPT => Config.mpsInt)
    let dbl := decide (ty = .BULK ∧ Config.mpsBulk < size.toNat)
    let sz := mps + mps % 2
    let final := s.usb.pmaNext + (if dbl then 2 else 1) * sz
    (a.num.val = 0 → Faults .EP0_RESERVED i s) ∧
    (a.num.val ≠ 0 → size = 0 → Faults .BAD_BUFFER_SIZE i s) ∧
    (a.num.val ≠ 0 → size ≠ 0 → Config.pmaBytes < final → Faults .PMA_EXHAUSTED i s) ∧
    (a.num.val ≠ 0 → size ≠ 0 → final ≤ Config.pmaBytes → ∃ t, exec i s = .next t ∧
      t = { s with usb := { s.usb with pmaNext := final }, epOut := t.epOut, epIn := t.epIn,
                   reply := .result .OK .unit } ∧
      (∀ b, b ≠ a → t.ep b = s.ep b) ∧
      (t.ep a).cfg = true ∧ (t.ep a).type = ty ∧ (t.ep a).mps = mps ∧ (t.ep a).dbl = dbl ∧
      (t.ep a).slot0 = ⟨(match a.dir with | .IN => .EMPTY | .OUT => .FREE), 0, s.usb.pmaNext⟩ ∧
      (t.ep a).slot1.state = (match a.dir with | .IN => .EMPTY | .OUT => .FREE) ∧ (t.ep a).slot1.len = 0 ∧
      (t.ep a).slot1.pma = (if dbl then s.usb.pmaNext + sz else (s.ep a).slot1.pma) ∧
      (t.ep a).hwNext = 0 ∧ (t.ep a).swNext = 0 ∧ (t.ep a).paused = false ∧ (t.ep a).halt = false ∧
      (t.ep a).syncPending = false ∧ (t.ep a).hwstat = .VALID ∧
      (t.ep a).handler = (if a = ⟨.OUT, 1⟩ then some .onUsbDataReceived else none) ∧ (t.ep a).irq = 0)

/-- O34. EP_TRANSMIT_PACKET: not a configured IN endpoint, too long, busy, or the packet in the slot software writes next
(42_endpoint_engine.md R174; at endpoint 0 the fault is the model's reading, log 15). -/
def Obligations.EpTransmitPacket : Prop :=
  ∀ (s : State) (a : EpAddr) (data : List Byte),
    let i : Instr := .epTransmitPacket (epAddrToByte a) data
    let e := s.ep a
    let sl := e.slot e.swIdx
    let legal := a.dir = .IN ∧ e.cfg = true
    (¬ legal → Faults .EP_NOT_CONFIGURED i s) ∧
    (legal → e.mps < data.length → Faults .PACKET_TOO_LONG i s) ∧
    (legal → data.length ≤ e.mps → e.inFlight = e.K → exec i s = .next { s with reply := .result .BUSY .unit }) ∧
    (legal → data.length ≤ e.mps → e.inFlight ≠ e.K → sl.pma + data.length ≤ Config.pmaBytes → ∃ t,
      exec i s = .next t ∧
      t = { s with pma := t.pma, epIn := t.epIn, reply := .result .OK .unit } ∧
      (∀ b, b ≠ a → t.ep b = s.ep b) ∧
      t.ep a = { e.setSlot e.swIdx { sl with state := .LOADED, len := data.length } with swNext := e.succ e.swIdx } ∧
      (∀ k, k < data.length → t.readByte .pma (sl.pma + k) = data.getD k 0) ∧
      (∀ x, x < sl.pma ∨ sl.pma + data.length ≤ x → t.readByte .pma x = s.readByte .pma x))

/-- O35. The two endpoint reads write nothing (42_endpoint_engine.md R175, R193). EP_WRITE_AVAIL's fault at endpoint 0 is the
model's reading (log 15), and so is that EP_READ_STATUS ignores bits 7:4 of its selector (log 6). -/
def Obligations.EpReads : Prop :=
  (∀ (s : State) (a : EpAddr),
    (a.dir = .IN → (s.ep a).cfg = true → exec (.epWriteAvail (epAddrToByte a)) s = .next { s with
      reply := .result .OK (.len (if (s.ep a).inFlight < (s.ep a).K then (s.ep a).mps else 0)) }) ∧
    (a.dir = .OUT ∨ (s.ep a).cfg = false → Faults .EP_NOT_CONFIGURED (.epWriteAvail (epAddrToByte a)) s)) ∧
  (∀ (s : State) (sel : Byte),
    (∀ n : Fin Config.numEp, (sel.extractLsb' 0 4).toNat = n.val →
      exec (.epReadStatus sel) s = .next { s with reply := .result .OK (.u32 (s.epr n)) }) ∧
    (Config.numEp ≤ (sel.extractLsb' 0 4).toNat → Refuses (.epReadStatus sel) s))

/-- O36. The fields of EPR, bit by bit (30_encoding.md R95, R96). That IRQ is `irq` modulo 4 and HELD counts the slots in use
is the model's reading (log 19). -/
def Obligations.EprFields : Prop :=
  (∀ (s : State) (n : Fin Config.numEp), n.val ≠ 0 →
    let w := s.epr n
    let o := s.ep ⟨.OUT, n⟩
    let i := s.ep ⟨.IN, n⟩
    (w.extractLsb' 0 4).toNat = n.val ∧ w.extractLsb' 4 2 = epStatBits i.hwstat ∧
    w.getLsbD 6 = decide (i.hwNext = 1) ∧ w.getLsbD 7 = decide (i.swNext = 1) ∧
    (w.extractLsb' 8 2).toNat = i.inFlight ∧ w.getLsbD 10 = i.dbl ∧ w.getLsbD 11 = i.cfg ∧
    w.extractLsb' 12 2 = epStatBits o.hwstat ∧
    w.getLsbD 14 = decide (o.hwNext = 1) ∧ w.getLsbD 15 = decide (o.swNext = 1) ∧
    w.getLsbD 16 = o.dbl ∧ w.getLsbD 17 = o.cfg ∧ w.getLsbD 18 = o.paused ∧
    (w.extractLsb' 19 2).toNat = o.held ∧ w.getLsbD 21 = (o.syncPending || i.syncPending) ∧
    w.extractLsb' 22 2 = (match o.slot0.state with | .FULL => 1 | .HELD => 2 | _ => 0) ∧
    w.extractLsb' 24 2 = (if o.dbl then (match o.slot1.state with | .FULL => 1 | .HELD => 2 | _ => 0) else 0) ∧
    w.getLsbD 26 = i.halt ∧ w.getLsbD 27 = o.halt ∧
    w.extractLsb' 28 2 = (if i.cfg then (match i.type with | .BULK => 2 | .INTERRUPT => 3)
      else if o.cfg then (match o.type with | .BULK => 2 | .INTERRUPT => 3) else 0) ∧
    (w.extractLsb' 30 2).toNat = o.irq % 4) ∧
  (∀ s : State, s.epr 0 = (if s.ctrl.state = .STALLED then 0x00001010#32 else 0x00003030#32)) ∧
  epStatBits .DISABLED = 0 ∧ epStatBits .STALL = 1 ∧ epStatBits .NAK = 2 ∧ epStatBits .VALID = 3

/-- O37. EV_EP_IN_DONE hands the oldest packet to the host and frees its slot, exactly when the endpoint is configured, VALID
and its oldest slot is LOADED (42_endpoint_engine.md R178; that it is not enabled at endpoint 0 is the model's reading,
log 15). -/
def Obligations.EvEpInDone : Prop :=
  ∀ (s : State) (a : EpAddr),
    let i : Instr := .evEpInDone (epAddrToByte a)
    let e := s.ep a
    let sl := e.slot e.hwIdx
    let enabled := e.cfg = true ∧ e.hwstat = .VALID ∧ sl.state = .LOADED
    (¬ enabled → Waits i s) ∧
    (enabled → sl.pma + sl.len ≤ Config.pmaBytes → ∃ t, exec i s = .next t ∧
      t = { s with
        epOut := t.epOut, epIn := t.epIn
        hostIn := s.hostIn ++ [(a, (List.range sl.len).map fun k => s.readByte .pma (sl.pma + k))]
        reply := .event } ∧
      (∀ b, b ≠ a → t.ep b = s.ep b) ∧
      t.ep a = { e.setSlot e.hwIdx { sl with state := .EMPTY, len := 0 } with hwNext := e.succ e.hwIdx })

/-- O38. EV_EP_OUT lands a packet in the slot hardware fills next and raises a completion interrupt, exactly when the endpoint
is configured, VALID, the slot FREE and the packet no longer than `mps` (42_endpoint_engine.md R181; that it is not enabled at
endpoint 0 is the model's reading, log 15). -/
def Obligations.EvEpOut : Prop :=
  ∀ (s : State) (a : EpAddr) (data : List Byte),
    let i : Instr := .evEpOut (epAddrToByte a) data
    let e := s.ep a
    let sl := e.slot e.hwIdx
    let enabled := e.cfg = true ∧ e.hwstat = .VALID ∧ sl.state = .FREE ∧ data.length ≤ e.mps
    (¬ enabled → Waits i s) ∧
    (enabled → sl.pma + data.length ≤ Config.pmaBytes → ∃ t, exec i s = .next t ∧
      t = { s with pma := t.pma, epOut := t.epOut, epIn := t.epIn, reply := .event } ∧
      (∀ b, b ≠ a → t.ep b = s.ep b) ∧
      t.ep a = { e.setSlot e.hwIdx { sl with state := .FULL, len := data.length } with
        hwNext := e.succ e.hwIdx, irq := e.irq + 1 } ∧
      (∀ k, k < data.length → t.readByte .pma (sl.pma + k) = data.getD k 0) ∧
      (∀ x, x < sl.pma ∨ sl.pma + data.length ≤ x → t.readByte .pma x = s.readByte .pma x))

/-- O39. EP_READ_PACKET: not a configured OUT endpoint, a fault outside its own callback, NOT_READY, a fault for a short
buffer, or the packet, its slot FREE or, while paused, HELD (42_endpoint_engine.md R179, R180; at endpoint 0 the first fault
is the model's reading, log 15). -/
def Obligations.EpReadPacket : Prop :=
  ∀ (s : State) (a : EpAddr) (limit : Half),
    let i : Instr := .epReadPacket (epAddrToByte a) limit
    let e := s.ep a
    let sl := e.slot e.swIdx
    let legal := a.dir = .OUT ∧ e.cfg = true
    (¬ legal → Faults .EP_NOT_CONFIGURED i s) ∧
    (legal → s.usb.inCallback ≠ some a → Faults .OUTSIDE_CALLBACK i s) ∧
    (legal → s.usb.inCallback = some a → sl.state ≠ .FULL →
      exec i s = .next { s with reply := .result .NOT_READY .unit }) ∧
    (legal → s.usb.inCallback = some a → sl.state = .FULL → limit.toNat < sl.len → Faults .BUFFER_TOO_SMALL i s) ∧
    (legal → s.usb.inCallback = some a → sl.state = .FULL → sl.len ≤ limit.toNat →
      sl.pma + sl.len ≤ Config.pmaBytes → ∃ t, exec i s = .next t ∧
      t = { s with
        epOut := t.epOut
        reply := .result .OK (.bytes ((List.range sl.len).map fun k => s.readByte .pma (sl.pma + k))) } ∧
      (∀ b, b ≠ a → t.ep b = s.ep b) ∧
      t.ep a = { e.setSlot e.swIdx { sl with state := if e.paused then .HELD else .FREE } with
        swNext := e.succ e.swIdx })

/-- O40. EP_PAUSE, EP_UNPAUSE, EP_SET_HALT and EP_CLEAR_HALT: a fault where the endpoint is not one they take, else the flag
changes at once, the hardware follows at once outside the endpoint's own callback, and is deferred inside it
(42_endpoint_engine.md R182, R183, R184, R188, R189; at endpoint 0 the fault is the model's reading, log 15). -/
def Obligations.PauseAndHalt : Prop :=
  ∀ (s : State) (a : EpAddr) (i : Instr) (e : Endpoint) (legal : Bool),
    (legal = (decide (a.dir = .OUT) && (s.ep a).cfg) ∧
      ((i = .epPause (epAddrToByte a) ∧ e = { s.ep a with paused := true }) ∨
       (i = .epUnpause (epAddrToByte a) ∧ e = { s.ep a with paused := false }))) ∨
    (legal = (s.ep a).cfg ∧
      ((i = .epSetHalt (epAddrToByte a) ∧ e = { s.ep a with halt := true }) ∨
       (i = .epClearHalt (epAddrToByte a) ∧ e = { s.ep a with halt := false }))) →
    (legal = false → Faults .EP_NOT_CONFIGURED i s) ∧
    (legal = true → ∃ t, exec i s = .next t ∧
      t = { s with epOut := t.epOut, epIn := t.epIn, reply := .result .OK .unit } ∧
      (∀ b, b ≠ a → t.ep b = s.ep b) ∧
      (s.usb.inCallback = some a → t.ep a = { e with syncPending := true }) ∧
      (s.usb.inCallback ≠ some a → e.Synced (t.ep a)))

/-- O41. EV_USB_IRQ: not enabled without a pending interrupt; on an endpoint without a handler it only counts the interrupt
down, and on the bulk-OUT endpoint it does no more when its next slot holds no packet (42_endpoint_engine.md R198, R190;
44_cdc_bridge.md R287; that it is not enabled at endpoint 0 is the model's reading, log 15). -/
def Obligations.EvUsbIrq : Prop :=
  (∀ (s : State) (a : EpAddr), (s.ep a).cfg = false ∨ (s.ep a).irq = 0 → Waits (.evUsbIrq (epAddrToByte a)) s) ∧
  (∀ (s : State) (a : EpAddr), s.EndpointInv → (s.ep a).cfg = true → 0 < (s.ep a).irq →
    a ≠ Config.epBulkOut ∨ ((s.ep a).slot (s.ep a).swIdx).state ≠ .FULL →
    ∃ t, exec (.evUsbIrq (epAddrToByte a)) s = .next t ∧
      t = { s with epOut := t.epOut, reply := .event } ∧
      (∀ b, b ≠ a → t.ep b = s.ep b) ∧ t.ep a = { s.ep a with irq := (s.ep a).irq - 1 })

/-- O42. The bulk-OUT callback: the packet goes to the TX ring, and the endpoint is left paused, and NAKing, exactly when the
ring has no room for two more packets; of its other slot only a HELD one changes, to FREE when the endpoint is left not paused.
A chunk starts when the engine is enabled and idle and the ring then holds data (44_cdc_bridge.md R287, R288, R298;
42_endpoint_engine.md R184, R190; 41_uart_engine.md R138, R139, R142). -/
def Obligations.BulkOutCallback : Prop :=
  ∀ s : State, s.Inv →
    let a := Config.epBulkOut
    let e := s.ep a
    let sl := e.slot e.swIdx
    let b := (List.range sl.len).map fun k => s.readByte .pma (sl.pma + k)
    e.cfg = true → 0 < e.irq → sl.state = .FULL → ∃ t, exec (.evUsbIrq 0x01) s = .next t ∧
      t = { s with txrb := t.txrb, uart := t.uart, epOut := t.epOut, reply := .event } ∧
      t.uart = (if s.uart.enabled = true ∧ s.uart.txBusy = false ∧ 0 < t.txrb.occ then
        { s.uart with
          txChunk := min t.txrb.contig
            (min (max (s.uart.coding.baud.toNat / Config.chunkDiv) Config.chunkMin) Config.chunkMax)
          txBusy := true }
        else s.uart) ∧
      s.txrb.Appended t.txrb
        (if s.uart.coding.dataBits = .seven then b.map (fun x => x &&& 0x7F#8) else b) (min sl.len s.txrb.space) ∧
      (∀ c, c ≠ a → t.ep c = s.ep c) ∧
      (t.ep a).irq = e.irq - 1 ∧ (t.ep a).swNext = e.succ e.swIdx ∧ (t.ep a).hwNext = e.hwNext ∧
      (t.ep a).halt = e.halt ∧ (t.ep a).mps = e.mps ∧
      (t.ep a).paused = decide (t.txrb.space < 2 * e.mps) ∧
      (t.ep a).hwstat = (if e.halt then .STALL else if t.txrb.space < 2 * e.mps then .NAK else .VALID) ∧
      ((t.ep a).slot e.swIdx).state = (if e.paused = true ∧ t.txrb.space < 2 * e.mps then .HELD else .FREE) ∧
      (∀ j, j ≠ e.swIdx → (t.ep a).slot j =
        if (e.slot j).state = .HELD ∧ 2 * e.mps ≤ t.txrb.space then { e.slot j with state := .FREE } else e.slot j) ∧
      t.ep a = { e with
        irq := (t.ep a).irq, swNext := (t.ep a).swNext, paused := (t.ep a).paused, hwstat := (t.ep a).hwstat
        slot0 := (t.ep a).slot0, slot1 := (t.ep a).slot1 } ∧
      (t.ep a).slot e.swIdx = { sl with state := ((t.ep a).slot e.swIdx).state }

/-- O43. Flow control (44_cdc_bridge.md R298 (a)): as long as software neither transmits, unpauses nor sets up the bulk-OUT
endpoint by itself, the TX ring keeps room for every packet that can still reach it, so the callback's packet always fits. -/
def Obligations.FlowRoomKept : Prop :=
  (∀ (i : Instr) (s t : State), s.Inv → s.FlowRoom → exec i s = .next t →
    (∀ d, i ≠ .uartTransmit d) → i ≠ .epUnpause 0x01 → (∀ n ty, i ≠ .epSetup 0x01 n ty) → t.FlowRoom) ∧
  (∀ s : State, s.Inv → s.FlowRoom → (s.ep Config.epBulkOut).cfg = true →
    ((s.ep Config.epBulkOut).slot (s.ep Config.epBulkOut).swIdx).state = .FULL →
    ((s.ep Config.epBulkOut).slot (s.ep Config.epBulkOut).swIdx).len ≤ s.txrb.space)

/-- O44. Pausing changes only when packets may arrive, never which slot is next: callbacks with pauses and unpauses between
them, ended by an unpause, leave the state that the callbacks alone leave; and so do sequences with arriving packets in them,
on any OUT endpoint, where every event of the sequence is enabled, with the pauses and unpauses and without them
(42_endpoint_engine.md R186; 70_reset_and_hazards.md R356). -/
def Obligations.PauseLeavesNoTrace : Prop :=
  (∀ (s : State) (is : List Instr), s.Inv → s.fault = none → (s.ep Config.epBulkOut).cfg = true →
    (∀ i ∈ is, i = .evUsbIrq 0x01 ∨ i = .epPause 0x01 ∨ i = .epUnpause 0x01) →
    ∃ t, execAll (is ++ [.epUnpause 0x01]) s = some t ∧
      execAll (is.filter (fun i => decide (i = .evUsbIrq 0x01)) ++ [.epUnpause 0x01]) s = some t) ∧
  (∀ (s t u : State) (a : EpAddr) (is : List Instr), s.Inv →
    let b := epAddrToByte a
    (∀ i ∈ is, i = .evUsbIrq b ∨ i = .epPause b ∨ i = .epUnpause b ∨ ∃ d, i = .evEpOut b d) →
    execTaken (is ++ [.epUnpause b]) s = some t →
    execTaken (is.filter (fun i => decide (i ≠ .epPause b ∧ i ≠ .epUnpause b)) ++ [.epUnpause b]) s = some u → t = u)

/-- O45. EP_DECONFIGURE_ALL and EV_BUS_RESET (10_state.md R36; 42_endpoint_engine.md R192, R194; 70_reset_and_hazards.md R350, R352). That a
bus reset leaves storage bytes and the SETUP bytes, and clears `in0_len` and `in0_data`, is the model's choice (log 13,
log 14). -/
def Obligations.DeconfigureAndBusReset : Prop :=
  let outReset : Endpoint :=
    ⟨false, .BULK, 0, false, ⟨.FREE, 0, 0⟩, ⟨.FREE, 0, 0⟩, 0, 0, false, .DISABLED, false, false, none, 0⟩
  let inReset : Endpoint :=
    ⟨false, .BULK, 0, false, ⟨.EMPTY, 0, 0⟩, ⟨.EMPTY, 0, 0⟩, 0, 0, false, .DISABLED, false, false, none, 0⟩
  (∀ s : State, exec .epDeconfigureAll s = .next { s with
    epOut := Vector.replicate 7 outReset, epIn := Vector.replicate 7 inReset
    usb := { s.usb with pmaNext := 2 * Config.mps0, inCallback := none }, reply := .result .OK .unit }) ∧
  (∀ s : State, s.uart.txBusy = false ∨ s.txrb.tail + s.uart.txChunk ≤ Config.rbCapTx →
    ∃ k, (s.uart.txBusy = false → k = 0) ∧ k ≤ s.uart.txChunk ∧ exec .evBusReset s = .next { s with
      epOut := Vector.replicate 7 outReset, epIn := Vector.replicate 7 inReset
      usb := ⟨0, 0, none, 2 * Config.mps0⟩
      ctrl := ⟨s.ctrl.setup, s.ctrl.buf, 0, 0, [], false, .IDLE, none, .EMPTY, 0, []⟩
      txrb := { s.txrb with head := 0, tail := 0 }
      rb0 := { s.rb0 with head := 0, tail := 0 }
      rx := { s.rx with dmaRem := s.rx.cap, tail := 0, lastLen := 0, armed := false }
      uart := ⟨⟨115200, .eight, .one, .none⟩, 967, Config.effectiveBaud 115200, false, 0, false, false, false⟩
      pin := { s.pin with dtr := false, rts := false }
      br := ⟨0, 0, 0, false⟩
      wireOut := s.wireOut ++ (List.range k).map (fun j => s.readByte .txrb (s.txrb.tail + j))
      draws := if s.uart.txBusy then s.draws + 1 else s.draws
      reply := .event })

/-! ## Control transfers -/

/-- O46. EV_SETUP of an OUT request with data, and EV_CTRL_OUT by state; the packet that completes the data is stored, the
request is dispatched with `CBUF[0 .. length-1]`, and its result is the status stage or a stall, never a fault
(43_control_transfer.md R221, R222, R230, R232, R233, R236, R237; 60_exceptions.md R328). -/
def Obligations.ControlOutStages : Prop :=
  (∀ (s : State) (r v0 v1 i0 i1 l0 l1 ty : Byte), ty.getLsbD 7 = false → l0.toNat + 256 * l1.toNat ≠ 0 →
    let p := [ty, r, v0, v1, i0, i1, l0, l1]
    let w := l0.toNat + 256 * l1.toNat
    let c := { s.ctrl with setup := p, in0 := .EMPTY, onDone := none, zlp := false, cursor := 0, resp := [] }
    (Config.ctrlBufCap < w → exec (.evSetup p) s = .next { s with
      ctrl := { c with state := .STALLED }, stalls := s.stalls + 1, reply := .event }) ∧
    (w ≤ Config.ctrlBufCap → exec (.evSetup p) s = .next { s with
      ctrl := { c with length := w, state := if w ≤ Config.mps0 then .LAST_DATA_OUT else .DATA_OUT }
      reply := .event })) ∧
  (∀ (s : State) (d : List Byte), s.ctrl.state = .STALLED ∨ Config.mps0 < d.length → Waits (.evCtrlOut d) s) ∧
  (∀ (s : State) (d : List Byte), d.length ≤ Config.mps0 →
    (s.ctrl.state = .IDLE → exec (.evCtrlOut d) s = .next { s with reply := .event }) ∧
    (s.ctrl.state = .STATUS_OUT → exec (.evCtrlOut d) s = .next { s with
      ctrl := { s.ctrl with state := .IDLE }, reply := .event }) ∧
    (s.ctrl.state = .DATA_IN ∨ s.ctrl.state = .LAST_DATA_IN → exec (.evCtrlOut d) s = .next { s with
      ctrl := { s.ctrl with in0 := .EMPTY, state := .IDLE, zlp := false }, reply := .event }) ∧
    (s.ctrl.state = .STATUS_IN ∨
        ((s.ctrl.state = .DATA_OUT ∨ s.ctrl.state = .LAST_DATA_OUT) ∧ s.ctrl.length < s.ctrl.cursor + d.length) →
      exec (.evCtrlOut d) s = .next { s with
        ctrl := { s.ctrl with state := .STALLED, in0 := .EMPTY, onDone := none, zlp := false }
        stalls := s.stalls + 1, reply := .event }) ∧
    (s.ctrl.state = .DATA_OUT ∨ s.ctrl.state = .LAST_DATA_OUT → s.ctrl.cursor + d.length < s.ctrl.length →
      s.ctrl.length ≤ Config.ctrlBufCap → ∃ m,
      exec (.evCtrlOut d) s = .next (
        if d.length < Config.mps0 then { s with
          ctrl := { s.ctrl with
            buf := m, cursor := s.ctrl.cursor + d.length
            state := .STALLED, in0 := .EMPTY, onDone := none, zlp := false }
          stalls := s.stalls + 1, reply := .event }
        else { s with
          ctrl := { s.ctrl with
            buf := m, cursor := s.ctrl.cursor + d.length
            state := if s.ctrl.length - (s.ctrl.cursor + d.length) ≤ Config.mps0 then .LAST_DATA_OUT
              else .DATA_OUT }
          reply := .event }) ∧
      (∀ k, k < d.length → m.read (s.ctrl.cursor + k) = d.getD k 0) ∧
      (∀ x, x < s.ctrl.cursor ∨ s.ctrl.cursor + d.length ≤ x → m.read x = s.readByte .cbuf x)) ∧
    (s.ctrl.state = .DATA_OUT ∨ s.ctrl.state = .LAST_DATA_OUT → s.ctrl.cursor + d.length = s.ctrl.length →
      s.ctrl.length ≤ Config.ctrlBufCap → (requestOf s.ctrl.setup).dirIn = false → ∃ m : Memory,
      let served := State.dispatchRequest { s with ctrl := { s.ctrl with buf := m, cursor := s.ctrl.length } }
        (requestOf s.ctrl.setup) ((List.range s.ctrl.length).map m.read)
      (∀ u resp, served = .ok (u, .handled resp) → exec (.evCtrlOut d) s = .next { u with
        ctrl := { u.ctrl with state := .STATUS_IN, in0 := .LOADED, in0Len := 0, in0Data := [] }, reply := .event }) ∧
      (∀ u, served = .ok (u, .notSupported) → exec (.evCtrlOut d) s = .next { u with
        ctrl := { u.ctrl with state := .STALLED, in0 := .EMPTY, onDone := none, zlp := false }
        stalls := u.stalls + 1, reply := .event }) ∧
      (∀ c, served ≠ .error (.misuse c)) ∧
      (∀ u, served ≠ .ok (u, .pass)) ∧
      (∀ k, k < d.length → m.read (s.ctrl.cursor + k) = d.getD k 0) ∧
      (∀ x, x < s.ctrl.cursor ∨ s.ctrl.cursor + d.length ≤ x → m.read x = s.readByte .cbuf x)))

/-- O47. EV_CTRL_IN_DONE by state, and the packet that `send_next_in` loads (43_control_transfer.md R226, R229, R246). -/
def Obligations.EvCtrlInDone : Prop :=
  ∀ s : State,
    let c : Ctrl := { s.ctrl with in0 := .EMPTY }
    let t : State := { s with hostIn := s.hostIn ++ [(⟨.IN, 0⟩, s.ctrl.in0Data)], reply := .event }
    let k := min Config.mps0 (s.ctrl.length - s.ctrl.cursor)
    let b := (s.ctrl.resp.drop s.ctrl.cursor).take k
    (s.ctrl.in0 = .EMPTY → Waits .evCtrlInDone s) ∧
    (s.ctrl.in0 = .LOADED →
      (s.ctrl.state = .LAST_DATA_IN → exec .evCtrlInDone s = .next { t with ctrl := { c with state := .STATUS_OUT } }) ∧
      (s.ctrl.state = .STATUS_IN → exec .evCtrlInDone s = .next { t with
        usb := { s.usb with
          address := match s.ctrl.onDone with | some (.setAddress a) => a | none => s.usb.address }
        ctrl := { c with state := .IDLE, onDone := none } }) ∧
      (s.ctrl.state = .DATA_IN → s.ctrl.cursor = s.ctrl.length ∧ s.ctrl.zlp = true →
        exec .evCtrlInDone s = .next { t with
          ctrl := { c with in0 := .LOADED, in0Data := [], in0Len := 0, zlp := false, state := .LAST_DATA_IN } }) ∧
      (s.ctrl.state = .DATA_IN → s.ctrl.cursor ≤ s.ctrl.length → ¬ (s.ctrl.cursor = s.ctrl.length ∧ s.ctrl.zlp = true) →
        exec .evCtrlInDone s = .next { t with
          ctrl := { c with
            in0 := .LOADED, in0Data := b, in0Len := b.length, cursor := s.ctrl.cursor + k
            state := if s.ctrl.cursor + k = s.ctrl.length ∧ s.ctrl.zlp = false then .LAST_DATA_IN
              else .DATA_IN } }))

/-- O48. The standard requests that only answer, whatever filters are registered, as control dispatch sees them
(43_control_transfer.md R225, R240, R241, R242, R247, R248, R250, R252, R253, R254). -/
def Obligations.StandardRequests : Prop :=
  ∀ (s : State) (req : Request) (data : List Byte),
    let answers := fun (resp : List Byte) => s.dispatchRequest req data = .ok (s, .handled resp)
    let rejected := s.dispatchRequest req data = .ok (s, .notSupported)
    let interface := s.usb.config ≠ 0 ∧ req.wIndex.toNat < Config.numIf
    (req.bmRequestType = 0x80 → req.bRequest = 0 → answers [0, 0]) ∧
    (req.bmRequestType = 0x81 → req.bRequest = 0 → (interface → answers [0, 0]) ∧ (¬ interface → rejected)) ∧
    (req.bmRequestType = 0x82 → req.bRequest = 0 →
      (req.wIndex.extractLsb' 0 4 = 0#4 → answers [0, 0]) ∧
      (∀ a : EpAddr, a.num.val ≠ 0 → req.wIndex.extractLsb' 0 8 = epAddrToByte a →
        ((s.ep a).cfg = true → answers [if (s.ep a).halt then 1 else 0, 0]) ∧ ((s.ep a).cfg = false → rejected)) ∧
      (req.wIndex.extractLsb' 0 4 ≠ 0#4 → (∀ a : EpAddr, req.wIndex.extractLsb' 0 8 ≠ epAddrToByte a) → rejected)) ∧
    (req.bmRequestType = 0x80 → req.bRequest = 6 →
      match Config.descriptors (req.wValue.extractLsb' 8 8) (req.wValue.extractLsb' 0 8) req.wIndex with
      | some bytes => answers bytes
      | none => rejected) ∧
    (req.bmRequestType = 0x00 → req.bRequest = 7 → rejected) ∧
    (req.bmRequestType = 0x80 → req.bRequest = 8 → answers [s.usb.config]) ∧
    (req.bmRequestType = 0x81 → req.bRequest = 10 → (interface → answers [0]) ∧ (¬ interface → rejected)) ∧
    (req.bmRequestType = 0x01 → req.bRequest = 11 →
      (interface ∧ req.wValue = 0 → answers []) ∧ (¬ (interface ∧ req.wValue = 0) → rejected)) ∧
    (req.bmRequestType.extractLsb' 5 2 = 0#2 →
      (req.bmRequestType, req.bRequest) ∉ [(0x80#8, 0#8), (0x81#8, 0#8), (0x82#8, 0#8), (0x02#8, 1#8), (0x02#8, 3#8),
        (0x00#8, 5#8), (0x80#8, 6#8), (0x00#8, 7#8), (0x80#8, 8#8), (0x00#8, 9#8), (0x81#8, 10#8), (0x01#8, 11#8)] →
      rejected)

/-- O49. The endpoint halt features, as control dispatch sees them (43_control_transfer.md R243, R244). That endpoint 0 is any
`wIndex` with bits 3:0 zero is the model's reading (log 18). -/
def Obligations.EndpointHaltFeatures : Prop :=
  ∀ (s : State) (req : Request) (data : List Byte) (set : Bool),
    let rejected := s.dispatchRequest req data = .ok (s, .notSupported)
    req.bRequest = (if set then 3 else 1) →
    (req.bmRequestType.extractLsb' 5 2 = 0#2 → req.bmRequestType ≠ 0x02 → rejected) ∧
    (req.bmRequestType = 0x02 →
      (req.wValue ≠ 0 → rejected) ∧
      (req.wValue = 0 → req.wIndex.extractLsb' 0 4 = 0#4 → s.dispatchRequest req data = .ok (s, .handled [])) ∧
      (req.wValue = 0 → req.wIndex.extractLsb' 0 4 ≠ 0#4 →
        (∀ a : EpAddr, req.wIndex.extractLsb' 0 8 = epAddrToByte a → (s.ep a).cfg = false) → rejected) ∧
      (∀ a : EpAddr, req.wValue = 0 → req.wIndex.extractLsb' 0 8 = epAddrToByte a → (s.ep a).cfg = true →
        s.usb.inCallback ≠ some a → a.num.val ≠ 0 → ∃ t,
          s.dispatchRequest req data = .ok (t, .handled []) ∧
          t = { s with epOut := t.epOut, epIn := t.epIn } ∧ (∀ b, b ≠ a → t.ep b = s.ep b) ∧
          ({ s.ep a with halt := set } : Endpoint).Synced (t.ep a)))

/-- O50. SET_ADDRESS: dispatch only latches the address, which waits for the status stage; a stall, a bus reset or another
SETUP drops it (43_control_transfer.md R245, R246; the bus reset itself writes 0, log 25). -/
def Obligations.SetAddressLatch : Prop :=
  (∀ (s : State) (req : Request) (data : List Byte), req.bmRequestType = 0x00 → req.bRequest = 5 →
    s.dispatchRequest req data =
      if req.wValue.toNat ≤ 127 ∧ req.wLength = 0 then
        .ok ({ s with ctrl := { s.ctrl with onDone := some (.setAddress (req.wValue.extractLsb' 0 7)) } }, .handled [])
      else .ok (s, .notSupported)) ∧
  ∀ (s : State) (a0 a1 i0 i1 : Byte),
    let p := [0x00, 0x05, a0, a1, i0, i1, 0x00, 0x00]
    (127 < a0.toNat + 256 * a1.toNat → ∃ t, exec (.evSetup p) s = .next t ∧
      t.ctrl.state = .STALLED ∧ t.ctrl.onDone = none ∧ t.usb = s.usb ∧ t.stalls = s.stalls + 1) ∧
    (a0.toNat + 256 * a1.toNat ≤ 127 →
      let t := { s with
        ctrl := { s.ctrl with
          setup := p, cursor := 0, resp := [], zlp := false, state := .STATUS_IN
          onDone := some (.setAddress (a0.extractLsb' 0 7)), in0 := .LOADED, in0Len := 0, in0Data := [] }
        reply := .event }
      exec (.evSetup p) s = .next t ∧
      exec .evCtrlInDone t = .next { t with
        hostIn := s.hostIn ++ [(⟨.IN, 0⟩, [])]
        usb := { s.usb with address := a0.extractLsb' 0 7 }
        ctrl := { t.ctrl with state := .IDLE, onDone := none, in0 := .EMPTY } } ∧
      (∀ d u, exec (.evCtrlOut d) t = .next u → d.length ≤ Config.mps0 →
        u.ctrl.onDone = none ∧ u.usb.address = s.usb.address) ∧
      (∀ q u, exec (.evSetup q) t = .next u → u.usb.address = s.usb.address ∧
        (q.getD 1 0 ≠ 0x05 → u.ctrl.onDone = none)) ∧
      (∀ u, exec .evBusReset t = .next u → u.usb.address = 0 ∧ u.ctrl.onDone = none))

/-- O51. SET_CONFIGURATION: 0 deconfigures; 1 configures the three endpoints, restarts the UART and clears the bridge's
serial-state memory; any other value is rejected: as control dispatch serves it, whatever its data stage, and as one EV_SETUP
when it has none (43_control_transfer.md R251; 44_cdc_bridge.md R286). -/
def Obligations.SetConfiguration : Prop :=
  let configured := fun (s t : State) => ∃ k, (s.uart.txBusy = false → k = 0) ∧ k ≤ s.uart.txChunk ∧
    t = { s with
      epOut := t.epOut, epIn := t.epIn, usb := ⟨s.usb.address, 1, none, 400⟩
      txrb := { s.txrb with head := 0, tail := 0 }
      rx := { s.rx with tail := 0, lastLen := 0, dmaRem := Config.rbCapRx, armed := true }
      uart := { s.uart with txChunk := 0, txBusy := false, enabled := true }
      pin := { s.pin with dtr := false, rts := false }
      br := { s.br with lastState := 0, pending := 0, zlpNeeded := false }
      wireOut := s.wireOut ++ (List.range k).map (fun j => s.readByte .txrb (s.txrb.tail + j))
      draws := if s.uart.txBusy then s.draws + 1 else s.draws } ∧
    (∀ a, a ≠ Config.epBulkOut → a ≠ Config.epBulkIn → a ≠ Config.epIntIn → t.ep a = Endpoint.reset a.dir) ∧
    t.ep Config.epBulkOut = ⟨true, .BULK, 64, true, ⟨.FREE, 0, 128⟩, ⟨.FREE, 0, 192⟩, 0, 0, false, .VALID, false,
      false, some .onUsbDataReceived, 0⟩ ∧
    t.ep Config.epBulkIn = ⟨true, .BULK, 64, true, ⟨.EMPTY, 0, 256⟩, ⟨.EMPTY, 0, 320⟩, 0, 0, false, .VALID, false,
      false, none, 0⟩ ∧
    t.ep Config.epIntIn = ⟨true, .INTERRUPT, 16, false, ⟨.EMPTY, 0, 384⟩, ⟨.EMPTY, 0, 0⟩, 0, 0, false, .VALID, false,
      false, none, 0⟩
  let deconfigured := fun (s : State) => { s with
    epOut := Vector.replicate 7 (Endpoint.reset .OUT), epIn := Vector.replicate 7 (Endpoint.reset .IN)
    usb := ⟨s.usb.address, 0, none, 128⟩ }
  let startable := fun (s : State) => s.uart.txBusy = false ∨ s.txrb.tail + s.uart.txChunk ≤ Config.rbCapTx
  (∀ (s : State) (req : Request) (data : List Byte), req.bmRequestType = 0x00 → req.bRequest = 9 →
    (1 < req.wValue.toNat → s.dispatchRequest req data = .ok (s, .notSupported)) ∧
    (req.wValue = 0 → s.dispatchRequest req data = .ok (deconfigured s, .handled [])) ∧
    (req.wValue = 1 → startable s → ∃ t, configured s t ∧ s.dispatchRequest req data = .ok (t, .handled []))) ∧
  (∀ (s : State) (v0 v1 i0 i1 : Byte),
    let p := [0x00, 0x09, v0, v1, i0, i1, 0x00, 0x00]
    let v := v0.toNat + 256 * v1.toNat
    let c := { s.ctrl with
      setup := p, cursor := 0, resp := [], zlp := false, state := .STATUS_IN
      onDone := none, in0 := .LOADED, in0Len := 0, in0Data := [] }
    (1 < v → exec (.evSetup p) s = .next { s with
      ctrl := { s.ctrl with
        setup := p, cursor := 0, resp := [], zlp := false, state := .STALLED, onDone := none, in0 := .EMPTY }
      stalls := s.stalls + 1, reply := .event }) ∧
    (v = 0 → exec (.evSetup p) s = .next { deconfigured s with ctrl := c, reply := .event }) ∧
    (v = 1 → startable s → ∃ t, configured s t ∧ exec (.evSetup p) s = .next { t with ctrl := c, reply := .event }))

/-- O52. EV_SETUP of a request without an OUT data stage: its result is the IN data stage's first packet, the status stage or
a stall, never a fault; an IN request's dispatch changes nothing; and an IN data stage ends in IDLE after the number of packets that
its length and its zero-length-packet rule give, which carry the response, cut to what the host asked, in order
(43_control_transfer.md R221, R222, R226, R227, R228, R233, R255; 60_exceptions.md R328). -/
def Obligations.InTransferTerminates : Prop :=
  let count := fun (r : List Byte) (w : Nat) =>
    max 1 ((r.length + 63) / 64) + (if 0 < r.length ∧ r.length < w ∧ r.length % 64 = 0 then 1 else 0)
  let delivered := fun (s t : State) (r : List Byte) (n : Nat) => ∃ packets : List (List Byte),
    t.ctrl.state = .IDLE ∧ packets.length = n ∧ packets.flatten = r ∧ (∀ b ∈ packets, b.length ≤ Config.mps0) ∧
    t = { s with
      ctrl := t.ctrl, hostIn := s.hostIn ++ packets.map (fun b => ((⟨.IN, 0⟩ : EpAddr), b)), reply := .event } ∧
    t.ctrl.buf = s.ctrl.buf
  (∀ (s : State) (p : List Byte),
    let req := requestOf p
    let w := req.wLength.toNat
    let s1 := { s with
      ctrl := { s.ctrl with setup := p, in0 := .EMPTY, onDone := none, zlp := false, cursor := 0, resp := [] } }
    let served := s1.dispatchRequest req []
    (req.dirIn = true ∨ w = 0 →
      (∀ u resp, served = .ok (u, .handled resp) → w ≠ 0 →
        let r := resp.take w
        let zlp := decide (0 < r.length ∧ r.length < w ∧ r.length % Config.mps0 = 0)
        exec (.evSetup p) s = .next { u with
          ctrl := { u.ctrl with
            resp := r, length := r.length, cursor := min Config.mps0 r.length, zlp := zlp
            in0 := .LOADED, in0Len := min Config.mps0 r.length, in0Data := r.take Config.mps0
            state := if r.length ≤ Config.mps0 ∧ zlp = false then .LAST_DATA_IN else .DATA_IN }
          reply := .event }) ∧
      (∀ u resp, served = .ok (u, .handled resp) → w = 0 → exec (.evSetup p) s = .next { u with
        ctrl := { u.ctrl with state := .STATUS_IN, in0 := .LOADED, in0Len := 0, in0Data := [] }, reply := .event }) ∧
      (∀ u, served = .ok (u, .notSupported) → exec (.evSetup p) s = .next { u with
        ctrl := { u.ctrl with state := .STALLED, in0 := .EMPTY, onDone := none, zlp := false }
        stalls := u.stalls + 1, reply := .event }) ∧
      (∀ c, served ≠ .error (.misuse c)) ∧
      (∀ u, served ≠ .ok (u, .pass))) ∧
    (req.dirIn = true →
      (served = .ok (s1, .notSupported) ∨ ∃ resp, served = .ok (s1, .handled resp)) ∧
      (∀ resp, served = .ok (s1, .handled resp) → w ≠ 0 → s.fault = none →
        ∃ t, execAll (.evSetup p :: (List.replicate (count (resp.take w) w) .evCtrlInDone ++ [.evCtrlOut []])) s = some t ∧
          delivered s t (resp.take w) (count (resp.take w) w)))) ∧
  (∀ (s : State) (c : Ctrl) (resp : List Byte) (w : Nat), 0 < w → s.fault = none →
    s.ctrl = (c.startIn resp w).sendNextIn →
    ∃ t, execAll (List.replicate (count (resp.take w) w) .evCtrlInDone ++ [.evCtrlOut []]) s = some t ∧
      delivered s t (resp.take w) (count (resp.take w) w))

/-- O53. The CDC class requests, once a filter for them is registered, and the class and vendor requests that no handler serves,
as control dispatch sees them (44_cdc_bridge.md R281, R282, R283, R284; 43_control_transfer.md R225). -/
def Obligations.CdcRequests : Prop :=
  ∀ (s : State) (req : Request) (data : List Byte),
    let rejected := s.dispatchRequest req data = .ok (s, .notSupported)
    let filtered := ∃ f ∈ s.filters, f.matchesType req.bmRequestType = true
    (filtered → req.wIndex = Config.commIf →
      (req.bmRequestType = 0xA1 → req.bRequest = 0x21 →
        s.dispatchRequest req data = .ok (s, .handled (encodeCoding s.uart.coding))) ∧
      (req.bmRequestType = 0x21 → req.bRequest = 0x22 → req.wLength ≠ 0 → rejected) ∧
      (req.bmRequestType = 0x21 → req.bRequest = 0x22 → req.wLength = 0 → s.dispatchRequest req data =
        .ok ({ s with pin := { s.pin with dtr := req.wValue.getLsbD 0 } }, .handled [])) ∧
      (req.bmRequestType = 0x21 → req.bRequest = 0x20 → req.wLength ≠ 7 ∨ data.length ≠ 7 → rejected) ∧
      (req.bmRequestType = 0x21 → req.bRequest = 0x20 → req.wLength = 7 → data.length = 7 →
        (∀ c, decodeCoding data = some c → legalCoding c = false) → rejected) ∧
      (∀ c, req.bmRequestType = 0x21 → req.bRequest = 0x20 → req.wLength = 7 → data.length = 7 →
        decodeCoding data = some c → legalCoding c = true → s.dispatchRequest req data =
          .ok ({ s with uart := { s.uart with
            coding := c, effBaud := Config.effectiveBaud c.baud, rxHwm := highWaterMark c.baud } }, .handled []))) ∧
    (req.bmRequestType.extractLsb' 5 2 ≠ 0#2 →
      ¬ filtered ∨ req.wIndex ≠ Config.commIf ∨
        (req.bmRequestType, req.bRequest) ∉ [(0x21#8, 0x20#8), (0xA1#8, 0x21#8), (0x21#8, 0x22#8)] →
      rejected)

/-- O54. Validation before apply: a SET_LINE_CODING transfer whose declared length is at most one packet either ends in IDLE
with the decoded coding, or ends STALLED with the UART as it was; the control buffer holds the bytes of a packet that was not
too long, and is otherwise as it was (44_cdc_bridge.md R282, R285; 43_control_transfer.md R230, R231). -/
def Obligations.SetLineCodingTransfer : Prop :=
  ∀ (s : State) (v0 v1 l0 : Byte) (data : List Byte), s.fault = none →
    (∃ f ∈ s.filters, f.matchesType 0x21 = true) →
    let p := [0x21, 0x20, v0, v1, 0x00, 0x00, l0, 0x00]
    let stored := fun (t : State) (n : Nat) =>
      (∀ k, k < n → t.readByte .cbuf k = data.getD k 0) ∧ (∀ x, n ≤ x → t.readByte .cbuf x = s.readByte .cbuf x)
    (∀ c, l0 = 7 → data.length = 7 → decodeCoding data = some c → legalCoding c = true → ∃ t,
      execAll [.evSetup p, .evCtrlOut data, .evCtrlInDone] s = some t ∧ t.ctrl.state = .IDLE ∧
      t = { s with
        ctrl := t.ctrl
        uart := { s.uart with
          coding := c, effBaud := Config.effectiveBaud c.baud, rxHwm := highWaterMark c.baud }
        hostIn := s.hostIn ++ [(⟨.IN, 0⟩, [])], reply := .event } ∧
      stored t 7) ∧
    (l0 ≠ 0 → l0.toNat ≤ Config.mps0 → data.length ≤ Config.mps0 →
      l0 ≠ 7 ∨ data.length ≠ 7 ∨ (∀ c, decodeCoding data = some c → legalCoding c = false) → ∃ t,
      execAll [.evSetup p, .evCtrlOut data] s = some t ∧ t.ctrl.state = .STALLED ∧
      t = { s with ctrl := t.ctrl, stalls := s.stalls + 1, reply := .event } ∧
      stored t (if data.length ≤ l0.toNat then data.length else 0)) ∧
    (l0 = 0 → ∃ t, exec (.evSetup p) s = .next t ∧ t.ctrl.state = .STALLED ∧
      t = { s with ctrl := t.ctrl, stalls := s.stalls + 1, reply := .event } ∧ stored t 0)

/-- O55. CTRL_REGISTER_FILTER, BRIDGE_INIT and CTRL_READ_STATE (43_control_transfer.md R238, R239; 44_cdc_bridge.md R280;
30_encoding.md R97). -/
def Obligations.RegisterInitReadState : Prop :=
  (∀ (s : State) (h value mask : Byte), h ≠ 1 → Refuses (.ctrlRegisterFilter h value mask) s) ∧
  (∀ (s : State) (value mask : Byte),
    (s.filters.length = Config.filterCap →
      Faults .FILTER_TABLE_FULL (.ctrlRegisterFilter 1 value mask) s ∧ Faults .FILTER_TABLE_FULL .bridgeInit s) ∧
    (s.filters.length ≠ Config.filterCap →
      exec (.ctrlRegisterFilter 1 value mask) s = .next { s with
        filters := s.filters ++ [⟨mask, value, .cdcClass⟩], reply := .result .OK .unit } ∧
      exec .bridgeInit s = .next { s with
        filters := s.filters ++ [⟨0x7F, 0x21, .cdcClass⟩], br := ⟨0, 0, 0, false⟩, reply := .result .OK .unit })) ∧
  (∀ s : State, exec .ctrlReadState s = .next { s with reply := .result .OK (.u32 s.ctrlView) } ∧
    s.ctrlView.extractLsb' 0 8 = (match s.ctrl.state with
      | .IDLE => 0 | .STALLED => 1 | .DATA_IN => 2 | .LAST_DATA_IN => 3
      | .STATUS_IN => 4 | .DATA_OUT => 5 | .LAST_DATA_OUT => 6 | .STATUS_OUT => 7) ∧
    s.ctrlView.extractLsb' 8 7 = s.usb.address ∧ s.ctrlView.getLsbD 15 = false ∧
    s.ctrlView.extractLsb' 16 8 = s.usb.config ∧ s.ctrlView.extractLsb' 24 8 = 0#8)

/-! ## The bridge -/

/-- O56. BRIDGE_POLL is UART_POLL, the gathering of the error flags and, while configured, `update_pause`, `notify` and
`rx_to_usb`, in that order; a notification the interrupt endpoint cannot take faults the whole poll. From a state with the
invariants it completes, with what each part leaves (44_cdc_bridge.md R288, R289, R295, R298 (c); O57 and O58 say what the
last two leave). -/
def Obligations.BridgePoll : Prop :=
  ∀ (s : State) (now : Word), ∃ p, exec .uartPoll s = .next p ∧
    let g : State := { p with
      uart := { p.uart with overrun := false, parityErr := false }
      br := { p.br with pending := p.br.pending ||| (if p.uart.overrun then 0x0040 else 0)
        ||| (if p.uart.parityErr then 0x0020 else 0) }
      reply := s.reply }
    (s.usb.config = 0 → exec (.bridgePoll now) s = .next { g with reply := .result .OK .unit }) ∧
    (∀ s2 s3 t, s.usb.config ≠ 0 → g.updatePause = .ok s2 → s2.notify = .ok s3 → s3.rxToUsb now = .ok t →
      exec (.bridgePoll now) s = .next { t with reply := .result .OK .unit }) ∧
    (∀ s2 c, s.usb.config ≠ 0 → g.updatePause = .ok s2 → s2.notify = .error (.misuse c) →
      Faults c (.bridgePoll now) s) ∧
    (s.Inv → s.SlotsDisjoint → s.usb.config ≠ 0 →
      ¬ g.NotifyDue ∨ ((s.ep Config.epIntIn).cfg = true ∧ 10 ≤ (s.ep Config.epIntIn).mps) →
      let o := s.ep Config.epBulkOut
      let n := s.ep Config.epIntIn
      let i := s.ep Config.epBulkIn
      ∃ s2 s3 t, exec (.bridgePoll now) s = .next { t with reply := .result .OK .unit } ∧
        g.updatePause = .ok s2 ∧ s2.notify = .ok s3 ∧ s3.rxToUsb now = .ok t ∧
        (s2.EndpointInv ∧ s2.SlotsDisjoint ∧ s2.SerialInv) ∧ (s3.EndpointInv ∧ s3.SlotsDisjoint ∧ s3.SerialInv) ∧
        s2 = { g with epOut := s2.epOut } ∧ (∀ a, a ≠ Config.epBulkOut → s2.ep a = s.ep a) ∧
        (o.cfg = false ∨ o.paused = decide (s.txrb.space < 2 * o.mps) → s2 = g) ∧
        (o.cfg = true → ({ o with paused := decide (s.txrb.space < 2 * o.mps) } : Endpoint).Synced
          (s2.ep Config.epBulkOut)) ∧
        t = { s with
          uart := { p.uart with overrun := false, parityErr := false }
          rx := t.rx, pin := p.pin, pma := t.pma, epOut := s2.epOut, epIn := t.epIn, br := t.br } ∧
        (∀ a, a ≠ Config.epBulkOut → a ≠ Config.epBulkIn → a ≠ Config.epIntIn → t.ep a = s.ep a) ∧
        (∀ x, ((n.slot n.swIdx).state = .EMPTY → x < (n.slot n.swIdx).pma ∨ (n.slot n.swIdx).pma + 10 ≤ x) →
          (∀ j, i.hasSlot j → (i.slot j).state = .EMPTY → x < (i.slot j).pma ∨ (i.slot j).pma + i.mps ≤ x) →
          t.readByte .pma x = s.readByte .pma x))

/-- O57. The SERIAL_STATE notification: sent only when the state differs from the last one sent or a flag is pending; a busy
endpoint changes nothing; what is sent is the 10 bytes of the packet, in the slot software writes next, and every other byte
of packet memory is as before (44_cdc_bridge.md R290, R291; 30_encoding.md R93, R94). -/
def Obligations.Notify : Prop :=
  ∀ s : State, s.EndpointInv → s.SlotsDisjoint →
    let st := s.br.pending ||| (if s.pin.dcdW then 0 else 1) ||| (if s.pin.dsrW then 0 else 2)
    let i := s.ep Config.epIntIn
    let sl := i.slot i.swIdx
    (¬ s.NotifyDue → s.notify = .ok s) ∧
    (s.NotifyDue → i.cfg = false → s.notify = .error (.misuse .EP_NOT_CONFIGURED)) ∧
    (s.NotifyDue → i.cfg = true → i.mps < 10 → s.notify = .error (.misuse .PACKET_TOO_LONG)) ∧
    (s.NotifyDue → i.cfg = true → 10 ≤ i.mps → i.inFlight = i.K → s.notify = .ok s) ∧
    (s.NotifyDue → i.cfg = true → 10 ≤ i.mps → i.inFlight ≠ i.K → ∃ t, s.notify = .ok t ∧
      t = { s with pma := t.pma, epIn := t.epIn, br := { s.br with lastState := st, pending := 0 } } ∧
      (∀ b, b ≠ Config.epIntIn → t.ep b = s.ep b ∧ t.queued b = s.queued b) ∧
      t.ep Config.epIntIn = { i.setSlot i.swIdx { sl with state := .LOADED, len := 10 } with swNext := i.succ i.swIdx } ∧
      t.queued Config.epIntIn = s.queued Config.epIntIn ++
        [[0xA1, 0x20, 0x00, 0x00, 0x00, 0x00, 0x02, 0x00, st.extractLsb' 0 8, st.extractLsb' 8 8]] ∧
      (∀ x, x < sl.pma ∨ sl.pma + 10 ≤ x → t.readByte .pma x = s.readByte .pma x))

/-- O58. Draining the RX window into bulk IN packets: the coalescing rule, the zero-length packet in a poll of its own, the
bytes sent, oldest first, never more than the free slots take, the slots that hold them, full but for the last, and every
other byte of packet memory as before (44_cdc_bridge.md R292, R293, R294). -/
def Obligations.RxToUsb : Prop :=
  ∀ (s : State) (now : Word), s.EndpointInv → s.SlotsDisjoint → s.SerialInv →
    let a := Config.epBulkIn
    let i := s.ep a
    let avail := if s.rx.armed = true then s.rx.len else 0
    let due := Config.minBatch ≤ avail ∨ Config.maxAge ≤ (now - s.br.lastTxTime).toNat
    let n := min avail ((i.K - i.inFlight) * i.mps)
    let filled := fun (e : Endpoint) (len : Nat) =>
      ({ e.setSlot e.swIdx { e.slot e.swIdx with state := .LOADED, len := len } with swNext := e.succ e.swIdx } : Endpoint)
    (i.cfg = false → s.rxToUsb now = .ok s) ∧
    (i.cfg = true → i.inFlight = i.K → s.rxToUsb now = .ok s) ∧
    (i.cfg = true → i.inFlight ≠ i.K → s.br.zlpNeeded = true → ∃ t, s.rxToUsb now = .ok t ∧
      t = { s with epIn := t.epIn, br := { s.br with zlpNeeded := false, lastTxTime := now } } ∧
      t.ep a = filled i 0 ∧
      t.queued a = s.queued a ++ [[]] ∧ (∀ b, b ≠ a → t.ep b = s.ep b ∧ t.queued b = s.queued b)) ∧
    (i.cfg = true → i.inFlight ≠ i.K → s.br.zlpNeeded = false → ∃ t, s.rxToUsb now = .ok t ∧
      if avail = 0 ∨ ¬ due then t = s
      else
        let e1 := filled i (min n i.mps)
        let sl0 := i.slot i.swIdx
        let sl1 := e1.slot e1.swIdx
        t = { s with
          pma := t.pma, epIn := t.epIn
          rx := { s.rx with tail := (s.rx.tail + n) % s.rx.cap, lastLen := s.rx.len - n }
          br := { s.br with zlpNeeded := decide (n % i.mps = 0), lastTxTime := now } } ∧
        t.ep a = (if n ≤ i.mps then e1 else filled e1 (n - i.mps)) ∧
        (t.ep a).inFlight = i.inFlight + (n + i.mps - 1) / i.mps ∧
        (t.queued a).flatten = (s.queued a).flatten ++
          (if s.uart.coding.dataBits = .seven then (s.rx.contents.take n).map (fun b => b &&& 0x7F#8)
           else s.rx.contents.take n) ∧
        (∀ b, b ≠ a → t.ep b = s.ep b ∧ t.queued b = s.queued b) ∧
        (∀ x, x < sl0.pma ∨ sl0.pma + min n i.mps ≤ x → n ≤ i.mps ∨ x < sl1.pma ∨ sl1.pma + (n - i.mps) ≤ x →
          t.readByte .pma x = s.readByte .pma x))

/-! ## Rules about the whole machine -/

/-- O59. Which operations can change the line coding, the device address, the STALLED state and the filter table; the
observation logs only grow (10_state.md R25, R33, R47, R52; 43_control_transfer.md R233). -/
def Obligations.OnlyTheseOperations : Prop :=
  ∀ (i : Instr) (s t : State), exec i s = .next t →
    (t.uart.coding ≠ s.uart.coding → (∃ p, i = .uartConfigure p) ∨ (∃ d, i = .evCtrlOut d) ∨ i = .evBusReset) ∧
    (t.usb.address ≠ s.usb.address → i = .evBusReset ∨
      (i = .evCtrlInDone ∧ s.ctrl.state = .STATUS_IN ∧ s.ctrl.onDone = some (.setAddress t.usb.address))) ∧
    (s.ctrl.state = .STALLED → t.ctrl.state ≠ .STALLED → i = .evBusReset ∨ (∃ p, i = .evSetup p)) ∧
    (t.filters ≠ s.filters → i = .bridgeInit ∨ (∃ h v m, i = .ctrlRegisterFilter h v m)) ∧
    s.wireOut <+: t.wireOut ∧ s.hostIn <+: t.hostIn ∧ s.stalls ≤ t.stalls

/-- O60. What the host sees when it addresses an endpoint agrees with which events exist: endpoint 0 answers STALL exactly while
the control machine is STALLED, and a SETUP is accepted even then; a halted endpoint answers STALL; a packet is accepted or
sent exactly when its event is enabled (60_exceptions.md R324; 42_endpoint_engine.md R185, R187; 43_control_transfer.md R221,
R233; 10_state.md R46). -/
def Obligations.Handshakes : Prop :=
  (∀ s : State, (s.handshake ⟨.OUT, 0⟩ = .stall ↔ s.ctrl.state = .STALLED) ∧
    (s.handshake ⟨.IN, 0⟩ = .stall ↔ s.ctrl.state = .STALLED) ∧ (∀ p, ¬ Waits (.evSetup p) s)) ∧
  (∀ (s : State) (d : List Byte), d.length ≤ Config.mps0 →
    (s.handshake ⟨.OUT, 0⟩ = .ack ↔ ¬ Waits (.evCtrlOut d) s)) ∧
  (∀ s : State, s.ControlInv → (s.handshake ⟨.IN, 0⟩ = .ack ↔ ¬ Waits .evCtrlInDone s)) ∧
  (∀ (s : State) (a : EpAddr), s.EndpointInv → a.num.val ≠ 0 →
    ((s.ep a).cfg = false → s.handshake a = .silent) ∧
    ((s.ep a).cfg = true → (s.handshake a = .stall ↔ (s.ep a).halt = true)) ∧
    (a.dir = .OUT → (s.ep a).cfg = true → (s.ep a).paused = true → (s.ep a).halt = false → s.handshake a = .nak) ∧
    (∀ d : List Byte, a.dir = .OUT → d.length ≤ (s.ep a).mps →
      (s.handshake a = .ack ↔ ¬ Waits (.evEpOut (epAddrToByte a) d) s)) ∧
    (a.dir = .IN → (s.handshake a = .ack ↔ ¬ Waits (.evEpInDone (epAddrToByte a)) s)))

end
end

