-- ==== Sys2Proof/Laws/Memory.lean ====
section
/-! SUPPORT. The laws of storage: read after write, the canonical form that every operation keeps, byte sequences. -/

namespace Sys2Proof.Machine

/-! ## Reading what was written -/

@[simp] theorem Memory.read_nil (a : Nat) : Memory.read [] a = unlisted := rfl

theorem Memory.read_erase_self (m : Memory) (a : Nat) : (m.erase a).read a = unlisted := by
  induction m with
  | nil => rfl
  | cons c m ih =>
    obtain ⟨c, x⟩ := c
    by_cases h : c = a <;> simp [Memory.erase, h, Memory.read, ih]

theorem Memory.read_erase_other (m : Memory) {a b : Nat} (h : b ≠ a) : (m.erase a).read b = m.read b := by
  induction m with
  | nil => rfl
  | cons c m ih =>
    obtain ⟨c, x⟩ := c
    by_cases hc : c = a
    · subst hc; simp [Memory.erase, Memory.read, ih, Ne.symm h]
    · simp only [Memory.erase, hc, if_false, Memory.read, ih]

theorem Memory.read_insert_self (m : Memory) (a : Nat) (b : Byte) (h : ∀ c ∈ m, c.1 ≠ a) :
    (m.insert a b).read a = b := by
  induction m with
  | nil => simp [Memory.insert, Memory.read]
  | cons c m ih =>
    obtain ⟨c, x⟩ := c
    have hc : c ≠ a := h (c, x) (by simp)
    have ih' := ih fun d hd => h d (by simp [hd])
    by_cases hl : a < c <;> simp [Memory.insert, hl, Memory.read, hc, ih']

theorem Memory.read_insert_other (m : Memory) {a x : Nat} (b : Byte) (h : x ≠ a) :
    (m.insert a b).read x = m.read x := by
  induction m with
  | nil => simp [Memory.insert, Memory.read, Ne.symm h]
  | cons c m ih =>
    obtain ⟨c, y⟩ := c
    by_cases hl : a < c
    · simp [Memory.insert, hl, Memory.read, Ne.symm h]
    · simp only [Memory.insert, hl, if_false, Memory.read, ih]

theorem Memory.not_mem_erase (m : Memory) (a : Nat) : ∀ c ∈ m.erase a, c.1 ≠ a := by
  induction m with
  | nil => simp [Memory.erase]
  | cons c m ih =>
    obtain ⟨c, x⟩ := c
    by_cases h : c = a
    · simpa [Memory.erase, h] using ih
    · intro d hd
      simp only [Memory.erase, h, if_false, List.mem_cons] at hd
      rcases hd with rfl | hd
      · exact h
      · exact ih d hd

/-- A read after a write to the same address gives the byte written. -/
@[simp] theorem Memory.read_write_self (m : Memory) (a : Nat) (b : Byte) : (m.write a b).read a = b := by
  unfold Memory.write
  split
  · rename_i h; rw [h]; exact Memory.read_erase_self m a
  · exact Memory.read_insert_self _ a b (Memory.not_mem_erase m a)

/-- A write leaves every other address alone. -/
@[simp] theorem Memory.read_write_other (m : Memory) {a x : Nat} (b : Byte) (h : x ≠ a) :
    (m.write a b).read x = m.read x := by
  unfold Memory.write
  split
  · exact Memory.read_erase_other m h
  · rw [Memory.read_insert_other _ b h, Memory.read_erase_other m h]

/-! ## The canonical form -/

theorem Memory.wfFrom_mono {m : Memory} {lo lo' : Nat} (h : lo' ≤ lo) (w : Memory.wfFrom lo m = true) :
    Memory.wfFrom lo' m = true := by
  cases m with
  | nil => rfl
  | cons c m =>
    simp only [Memory.wfFrom, Bool.and_eq_true, decide_eq_true_eq] at w ⊢
    exact ⟨⟨by omega, w.1.2⟩, w.2⟩

theorem Memory.wfFrom_erase {m : Memory} {lo : Nat} (a : Nat) (w : Memory.wfFrom lo m = true) :
    Memory.wfFrom lo (m.erase a) = true := by
  induction m generalizing lo with
  | nil => rfl
  | cons c m ih =>
    obtain ⟨c, x⟩ := c
    simp only [Memory.wfFrom, Bool.and_eq_true, decide_eq_true_eq] at w
    by_cases h : c = a
    · simp only [Memory.erase, h, if_true]
      exact Memory.wfFrom_mono (by omega) (ih w.2)
    · simp only [Memory.erase, h, if_false, Memory.wfFrom, Bool.and_eq_true, decide_eq_true_eq]
      exact ⟨w.1, ih w.2⟩

theorem Memory.wfFrom_insert {m : Memory} {lo a : Nat} {b : Byte} (hb : b ≠ unlisted) (hl : lo ≤ a)
    (hm : ∀ c ∈ m, c.1 ≠ a) (w : Memory.wfFrom lo m = true) : Memory.wfFrom lo (m.insert a b) = true := by
  induction m generalizing lo with
  | nil => simp [Memory.insert, Memory.wfFrom, hb, hl]
  | cons c m ih =>
    obtain ⟨c, x⟩ := c
    have hc : c ≠ a := hm (c, x) (by simp)
    simp only [Memory.wfFrom, Bool.and_eq_true, decide_eq_true_eq] at w
    by_cases h : a < c
    · simp only [Memory.insert, h, if_true, Memory.wfFrom, Bool.and_eq_true, decide_eq_true_eq]
      exact ⟨⟨hl, hb⟩, ⟨by omega, w.1.2⟩, w.2⟩
    · simp only [Memory.insert, h, if_false, Memory.wfFrom, Bool.and_eq_true, decide_eq_true_eq]
      exact ⟨w.1, ih (by omega) (fun d hd => hm d (by simp [hd])) w.2⟩

/-- A write keeps the canonical form. -/
@[simp] theorem Memory.wf_write {m : Memory} (a : Nat) (b : Byte) (w : m.wf = true) : (m.write a b).wf = true := by
  unfold Memory.wf Memory.write
  split
  · exact Memory.wfFrom_erase a w
  · rename_i h
    exact Memory.wfFrom_insert h (Nat.zero_le a) (Memory.not_mem_erase m a) (Memory.wfFrom_erase a w)

/-- A write of a byte sequence keeps the canonical form. -/
@[simp] theorem Memory.wf_writeBytes {m : Memory} (a : Nat) (bs : List Byte) (w : m.wf = true) :
    (m.writeBytes a bs).wf = true := by
  induction bs generalizing m a with
  | nil => exact w
  | cons b bs ih => exact ih (a + 1) (Memory.wf_write a b w)

@[simp] theorem Memory.wf_nil : Memory.wf [] = true := rfl

/-! ## Staying inside a space -/

theorem Memory.within_erase {m : Memory} {n : Nat} (a : Nat) (w : m.within n = true) : (m.erase a).within n = true := by
  induction m with
  | nil => rfl
  | cons c m ih =>
    obtain ⟨c, x⟩ := c
    simp only [Memory.within, List.all_cons, Bool.and_eq_true] at w
    by_cases h : c = a
    · simp only [Memory.erase, h, if_true]; exact ih w.2
    · simp only [Memory.erase, h, if_false, Memory.within, List.all_cons, Bool.and_eq_true]
      exact ⟨w.1, ih w.2⟩

theorem Memory.within_insert {m : Memory} {n a : Nat} {b : Byte} (ha : a < n) (w : m.within n = true) :
    (m.insert a b).within n = true := by
  induction m with
  | nil => simp [Memory.insert, Memory.within, ha]
  | cons c m ih =>
    obtain ⟨c, x⟩ := c
    by_cases h : a < c
    · simp only [Memory.insert, h, if_true, Memory.within, List.all_cons, Bool.and_eq_true, decide_eq_true_eq]
      exact ⟨ha, by simpa [Memory.within] using w⟩
    · simp only [Memory.within, List.all_cons, Bool.and_eq_true] at w
      simp only [Memory.insert, h, if_false, Memory.within, List.all_cons, Bool.and_eq_true]
      exact ⟨w.1, ih w.2⟩

/-- A write inside a space stays inside it. -/
theorem Memory.within_write {m : Memory} {n a : Nat} (b : Byte) (ha : a < n) (w : m.within n = true) :
    (m.write a b).within n = true := by
  unfold Memory.write
  split
  · exact Memory.within_erase a w
  · exact Memory.within_insert ha (Memory.within_erase a w)

/-- A write of a byte sequence inside a space stays inside it. -/
theorem Memory.within_writeBytes {m : Memory} {n a : Nat} (bs : List Byte) (ha : a + bs.length ≤ n)
    (w : m.within n = true) : (m.writeBytes a bs).within n = true := by
  induction bs generalizing m a with
  | nil => exact w
  | cons b bs ih =>
    simp only [List.length_cons] at ha
    exact ih (by omega) (Memory.within_write b (by omega) w)

/-! ## Byte sequences -/

@[simp] theorem Memory.readBytes_length (m : Memory) (a n : Nat) : (m.readBytes a n).length = n := by
  induction n generalizing a with
  | zero => rfl
  | succ n ih => simp [Memory.readBytes, ih]

/-- What `MemRead` returns, byte by byte. -/
theorem Memory.readBytes_eq_map (m : Memory) (a n : Nat) :
    m.readBytes a n = (List.range n).map fun k => m.read (a + k) := by
  induction n generalizing a with
  | zero => rfl
  | succ n ih =>
    rw [Memory.readBytes, ih, List.range_succ_eq_map, List.map_cons, List.map_map]
    simp only [Nat.add_zero, List.cons.injEq, true_and]
    apply List.map_congr_left
    intro k _
    simp only [Function.comp, Nat.succ_eq_add_one]
    congr 1
    omega

/-- A write of a byte sequence leaves every address outside it alone. -/
theorem Memory.read_writeBytes_other (m : Memory) (a : Nat) (bs : List Byte) {x : Nat}
    (h : x < a ∨ a + bs.length ≤ x) : (m.writeBytes a bs).read x = m.read x := by
  induction bs generalizing m a with
  | nil => rfl
  | cons b bs ih =>
    simp only [List.length_cons] at h
    rw [Memory.writeBytes, ih _ _ (by omega), Memory.read_write_other _ _ (by omega)]

/-- A write of a byte sequence puts byte `k` at address `a + k`. -/
theorem Memory.read_writeBytes_at (m : Memory) (a : Nat) (bs : List Byte) {k : Nat} (h : k < bs.length) :
    (m.writeBytes a bs).read (a + k) = bs.getD k 0 := by
  induction bs generalizing m a k with
  | nil => simp at h
  | cons b bs ih =>
    cases k with
    | zero =>
      rw [Memory.writeBytes, Memory.read_writeBytes_other _ _ _ (by omega)]
      simp
    | succ k =>
      simp only [List.length_cons] at h
      have := ih (m.write a b) (a + 1) (k := k) (by omega)
      rw [Memory.writeBytes, show a + (k + 1) = a + 1 + k by omega, this]
      simp

end Sys2Proof.Machine
end

