-- ==== Sys2Proof/Laws/State.lean ====
section
/-! SUPPORT. One lemma for each field and each update of the state, true by `rfl`, so that no proof unfolds an update. -/

namespace Sys2Proof.Machine

/-! ## `State.raise` -/

@[simp] theorem State.raise_rb0 (s : State) (c : FaultCode) : (s.raise c).rb0 = s.rb0 := rfl
@[simp] theorem State.raise_txrb (s : State) (c : FaultCode) : (s.raise c).txrb = s.txrb := rfl
@[simp] theorem State.raise_rx (s : State) (c : FaultCode) : (s.raise c).rx = s.rx := rfl
@[simp] theorem State.raise_uart (s : State) (c : FaultCode) : (s.raise c).uart = s.uart := rfl
@[simp] theorem State.raise_pin (s : State) (c : FaultCode) : (s.raise c).pin = s.pin := rfl
@[simp] theorem State.raise_usb (s : State) (c : FaultCode) : (s.raise c).usb = s.usb := rfl
@[simp] theorem State.raise_epOut (s : State) (c : FaultCode) : (s.raise c).epOut = s.epOut := rfl
@[simp] theorem State.raise_epIn (s : State) (c : FaultCode) : (s.raise c).epIn = s.epIn := rfl
@[simp] theorem State.raise_pma (s : State) (c : FaultCode) : (s.raise c).pma = s.pma := rfl
@[simp] theorem State.raise_ctrl (s : State) (c : FaultCode) : (s.raise c).ctrl = s.ctrl := rfl
@[simp] theorem State.raise_filters (s : State) (c : FaultCode) : (s.raise c).filters = s.filters := rfl
@[simp] theorem State.raise_br (s : State) (c : FaultCode) : (s.raise c).br = s.br := rfl
@[simp] theorem State.raise_wireOut (s : State) (c : FaultCode) : (s.raise c).wireOut = s.wireOut := rfl
@[simp] theorem State.raise_hostIn (s : State) (c : FaultCode) : (s.raise c).hostIn = s.hostIn := rfl
@[simp] theorem State.raise_stalls (s : State) (c : FaultCode) : (s.raise c).stalls = s.stalls := rfl
@[simp] theorem State.raise_fault (s : State) (c : FaultCode) : (s.raise c).fault = some c := rfl
@[simp] theorem State.raise_refused (s : State) (c : FaultCode) : (s.raise c).refused = s.refused := rfl
@[simp] theorem State.raise_inbox (s : State) (c : FaultCode) : (s.raise c).inbox = s.inbox := rfl
@[simp] theorem State.raise_reply (s : State) (c : FaultCode) : (s.raise c).reply = .faulted c := rfl
@[simp] theorem State.raise_draws (s : State) (c : FaultCode) : (s.raise c).draws = s.draws := rfl

/-! ## `State.refuse` -/

@[simp] theorem State.refuse_rb0 (s : State) (op : Byte) : (s.refuse op).rb0 = s.rb0 := rfl
@[simp] theorem State.refuse_txrb (s : State) (op : Byte) : (s.refuse op).txrb = s.txrb := rfl
@[simp] theorem State.refuse_rx (s : State) (op : Byte) : (s.refuse op).rx = s.rx := rfl
@[simp] theorem State.refuse_uart (s : State) (op : Byte) : (s.refuse op).uart = s.uart := rfl
@[simp] theorem State.refuse_pin (s : State) (op : Byte) : (s.refuse op).pin = s.pin := rfl
@[simp] theorem State.refuse_usb (s : State) (op : Byte) : (s.refuse op).usb = s.usb := rfl
@[simp] theorem State.refuse_epOut (s : State) (op : Byte) : (s.refuse op).epOut = s.epOut := rfl
@[simp] theorem State.refuse_epIn (s : State) (op : Byte) : (s.refuse op).epIn = s.epIn := rfl
@[simp] theorem State.refuse_pma (s : State) (op : Byte) : (s.refuse op).pma = s.pma := rfl
@[simp] theorem State.refuse_ctrl (s : State) (op : Byte) : (s.refuse op).ctrl = s.ctrl := rfl
@[simp] theorem State.refuse_filters (s : State) (op : Byte) : (s.refuse op).filters = s.filters := rfl
@[simp] theorem State.refuse_br (s : State) (op : Byte) : (s.refuse op).br = s.br := rfl
@[simp] theorem State.refuse_wireOut (s : State) (op : Byte) : (s.refuse op).wireOut = s.wireOut := rfl
@[simp] theorem State.refuse_hostIn (s : State) (op : Byte) : (s.refuse op).hostIn = s.hostIn := rfl
@[simp] theorem State.refuse_stalls (s : State) (op : Byte) : (s.refuse op).stalls = s.stalls := rfl
@[simp] theorem State.refuse_fault (s : State) (op : Byte) : (s.refuse op).fault = s.fault := rfl
@[simp] theorem State.refuse_refused (s : State) (op : Byte) : (s.refuse op).refused = some op := rfl
@[simp] theorem State.refuse_inbox (s : State) (op : Byte) : (s.refuse op).inbox = s.inbox := rfl
@[simp] theorem State.refuse_reply (s : State) (op : Byte) : (s.refuse op).reply = .refused op := rfl
@[simp] theorem State.refuse_draws (s : State) (op : Byte) : (s.refuse op).draws = s.draws := rfl

/-! ## `State.waits` -/

@[simp] theorem State.waits_rb0 (s : State) : (s.waits).rb0 = s.rb0 := rfl
@[simp] theorem State.waits_txrb (s : State) : (s.waits).txrb = s.txrb := rfl
@[simp] theorem State.waits_rx (s : State) : (s.waits).rx = s.rx := rfl
@[simp] theorem State.waits_uart (s : State) : (s.waits).uart = s.uart := rfl
@[simp] theorem State.waits_pin (s : State) : (s.waits).pin = s.pin := rfl
@[simp] theorem State.waits_usb (s : State) : (s.waits).usb = s.usb := rfl
@[simp] theorem State.waits_epOut (s : State) : (s.waits).epOut = s.epOut := rfl
@[simp] theorem State.waits_epIn (s : State) : (s.waits).epIn = s.epIn := rfl
@[simp] theorem State.waits_pma (s : State) : (s.waits).pma = s.pma := rfl
@[simp] theorem State.waits_ctrl (s : State) : (s.waits).ctrl = s.ctrl := rfl
@[simp] theorem State.waits_filters (s : State) : (s.waits).filters = s.filters := rfl
@[simp] theorem State.waits_br (s : State) : (s.waits).br = s.br := rfl
@[simp] theorem State.waits_wireOut (s : State) : (s.waits).wireOut = s.wireOut := rfl
@[simp] theorem State.waits_hostIn (s : State) : (s.waits).hostIn = s.hostIn := rfl
@[simp] theorem State.waits_stalls (s : State) : (s.waits).stalls = s.stalls := rfl
@[simp] theorem State.waits_fault (s : State) : (s.waits).fault = s.fault := rfl
@[simp] theorem State.waits_refused (s : State) : (s.waits).refused = s.refused := rfl
@[simp] theorem State.waits_inbox (s : State) : (s.waits).inbox = s.inbox := rfl
@[simp] theorem State.waits_reply (s : State) : (s.waits).reply = .notEnabled := rfl
@[simp] theorem State.waits_draws (s : State) : (s.waits).draws = s.draws := rfl

/-! ## `State.answer` -/

@[simp] theorem State.answer_rb0 (s : State) (c : ResultCode) (v : Value) : (s.answer c v).rb0 = s.rb0 := rfl
@[simp] theorem State.answer_txrb (s : State) (c : ResultCode) (v : Value) : (s.answer c v).txrb = s.txrb := rfl
@[simp] theorem State.answer_rx (s : State) (c : ResultCode) (v : Value) : (s.answer c v).rx = s.rx := rfl
@[simp] theorem State.answer_uart (s : State) (c : ResultCode) (v : Value) : (s.answer c v).uart = s.uart := rfl
@[simp] theorem State.answer_pin (s : State) (c : ResultCode) (v : Value) : (s.answer c v).pin = s.pin := rfl
@[simp] theorem State.answer_usb (s : State) (c : ResultCode) (v : Value) : (s.answer c v).usb = s.usb := rfl
@[simp] theorem State.answer_epOut (s : State) (c : ResultCode) (v : Value) : (s.answer c v).epOut = s.epOut := rfl
@[simp] theorem State.answer_epIn (s : State) (c : ResultCode) (v : Value) : (s.answer c v).epIn = s.epIn := rfl
@[simp] theorem State.answer_pma (s : State) (c : ResultCode) (v : Value) : (s.answer c v).pma = s.pma := rfl
@[simp] theorem State.answer_ctrl (s : State) (c : ResultCode) (v : Value) : (s.answer c v).ctrl = s.ctrl := rfl
@[simp] theorem State.answer_filters (s : State) (c : ResultCode) (v : Value) : (s.answer c v).filters = s.filters := rfl
@[simp] theorem State.answer_br (s : State) (c : ResultCode) (v : Value) : (s.answer c v).br = s.br := rfl
@[simp] theorem State.answer_wireOut (s : State) (c : ResultCode) (v : Value) : (s.answer c v).wireOut = s.wireOut := rfl
@[simp] theorem State.answer_hostIn (s : State) (c : ResultCode) (v : Value) : (s.answer c v).hostIn = s.hostIn := rfl
@[simp] theorem State.answer_stalls (s : State) (c : ResultCode) (v : Value) : (s.answer c v).stalls = s.stalls := rfl
@[simp] theorem State.answer_fault (s : State) (c : ResultCode) (v : Value) : (s.answer c v).fault = s.fault := rfl
@[simp] theorem State.answer_refused (s : State) (c : ResultCode) (v : Value) : (s.answer c v).refused = s.refused := rfl
@[simp] theorem State.answer_inbox (s : State) (c : ResultCode) (v : Value) : (s.answer c v).inbox = s.inbox := rfl
@[simp] theorem State.answer_reply (s : State) (c : ResultCode) (v : Value) : (s.answer c v).reply = .result c v := rfl
@[simp] theorem State.answer_draws (s : State) (c : ResultCode) (v : Value) : (s.answer c v).draws = s.draws := rfl

/-! ## `State.taken` -/

@[simp] theorem State.taken_rb0 (s : State) : (s.taken).rb0 = s.rb0 := rfl
@[simp] theorem State.taken_txrb (s : State) : (s.taken).txrb = s.txrb := rfl
@[simp] theorem State.taken_rx (s : State) : (s.taken).rx = s.rx := rfl
@[simp] theorem State.taken_uart (s : State) : (s.taken).uart = s.uart := rfl
@[simp] theorem State.taken_pin (s : State) : (s.taken).pin = s.pin := rfl
@[simp] theorem State.taken_usb (s : State) : (s.taken).usb = s.usb := rfl
@[simp] theorem State.taken_epOut (s : State) : (s.taken).epOut = s.epOut := rfl
@[simp] theorem State.taken_epIn (s : State) : (s.taken).epIn = s.epIn := rfl
@[simp] theorem State.taken_pma (s : State) : (s.taken).pma = s.pma := rfl
@[simp] theorem State.taken_ctrl (s : State) : (s.taken).ctrl = s.ctrl := rfl
@[simp] theorem State.taken_filters (s : State) : (s.taken).filters = s.filters := rfl
@[simp] theorem State.taken_br (s : State) : (s.taken).br = s.br := rfl
@[simp] theorem State.taken_wireOut (s : State) : (s.taken).wireOut = s.wireOut := rfl
@[simp] theorem State.taken_hostIn (s : State) : (s.taken).hostIn = s.hostIn := rfl
@[simp] theorem State.taken_stalls (s : State) : (s.taken).stalls = s.stalls := rfl
@[simp] theorem State.taken_fault (s : State) : (s.taken).fault = s.fault := rfl
@[simp] theorem State.taken_refused (s : State) : (s.taken).refused = s.refused := rfl
@[simp] theorem State.taken_inbox (s : State) : (s.taken).inbox = s.inbox := rfl
@[simp] theorem State.taken_reply (s : State) : (s.taken).reply = .event := rfl
@[simp] theorem State.taken_draws (s : State) : (s.taken).draws = s.draws := rfl

/-! ## `State.emitWire` -/

@[simp] theorem State.emitWire_rb0 (s : State) (bs : List Byte) : (s.emitWire bs).rb0 = s.rb0 := rfl
@[simp] theorem State.emitWire_txrb (s : State) (bs : List Byte) : (s.emitWire bs).txrb = s.txrb := rfl
@[simp] theorem State.emitWire_rx (s : State) (bs : List Byte) : (s.emitWire bs).rx = s.rx := rfl
@[simp] theorem State.emitWire_uart (s : State) (bs : List Byte) : (s.emitWire bs).uart = s.uart := rfl
@[simp] theorem State.emitWire_pin (s : State) (bs : List Byte) : (s.emitWire bs).pin = s.pin := rfl
@[simp] theorem State.emitWire_usb (s : State) (bs : List Byte) : (s.emitWire bs).usb = s.usb := rfl
@[simp] theorem State.emitWire_epOut (s : State) (bs : List Byte) : (s.emitWire bs).epOut = s.epOut := rfl
@[simp] theorem State.emitWire_epIn (s : State) (bs : List Byte) : (s.emitWire bs).epIn = s.epIn := rfl
@[simp] theorem State.emitWire_pma (s : State) (bs : List Byte) : (s.emitWire bs).pma = s.pma := rfl
@[simp] theorem State.emitWire_ctrl (s : State) (bs : List Byte) : (s.emitWire bs).ctrl = s.ctrl := rfl
@[simp] theorem State.emitWire_filters (s : State) (bs : List Byte) : (s.emitWire bs).filters = s.filters := rfl
@[simp] theorem State.emitWire_br (s : State) (bs : List Byte) : (s.emitWire bs).br = s.br := rfl
@[simp] theorem State.emitWire_wireOut (s : State) (bs : List Byte) : (s.emitWire bs).wireOut = s.wireOut ++ bs := rfl
@[simp] theorem State.emitWire_hostIn (s : State) (bs : List Byte) : (s.emitWire bs).hostIn = s.hostIn := rfl
@[simp] theorem State.emitWire_stalls (s : State) (bs : List Byte) : (s.emitWire bs).stalls = s.stalls := rfl
@[simp] theorem State.emitWire_fault (s : State) (bs : List Byte) : (s.emitWire bs).fault = s.fault := rfl
@[simp] theorem State.emitWire_refused (s : State) (bs : List Byte) : (s.emitWire bs).refused = s.refused := rfl
@[simp] theorem State.emitWire_inbox (s : State) (bs : List Byte) : (s.emitWire bs).inbox = s.inbox := rfl
@[simp] theorem State.emitWire_reply (s : State) (bs : List Byte) : (s.emitWire bs).reply = s.reply := rfl
@[simp] theorem State.emitWire_draws (s : State) (bs : List Byte) : (s.emitWire bs).draws = s.draws := rfl

/-! ## `State.emitHost` -/

@[simp] theorem State.emitHost_rb0 (s : State) (a : EpAddr) (bs : List Byte) : (s.emitHost a bs).rb0 = s.rb0 := rfl
@[simp] theorem State.emitHost_txrb (s : State) (a : EpAddr) (bs : List Byte) : (s.emitHost a bs).txrb = s.txrb := rfl
@[simp] theorem State.emitHost_rx (s : State) (a : EpAddr) (bs : List Byte) : (s.emitHost a bs).rx = s.rx := rfl
@[simp] theorem State.emitHost_uart (s : State) (a : EpAddr) (bs : List Byte) : (s.emitHost a bs).uart = s.uart := rfl
@[simp] theorem State.emitHost_pin (s : State) (a : EpAddr) (bs : List Byte) : (s.emitHost a bs).pin = s.pin := rfl
@[simp] theorem State.emitHost_usb (s : State) (a : EpAddr) (bs : List Byte) : (s.emitHost a bs).usb = s.usb := rfl
@[simp] theorem State.emitHost_epOut (s : State) (a : EpAddr) (bs : List Byte) : (s.emitHost a bs).epOut = s.epOut := rfl
@[simp] theorem State.emitHost_epIn (s : State) (a : EpAddr) (bs : List Byte) : (s.emitHost a bs).epIn = s.epIn := rfl
@[simp] theorem State.emitHost_pma (s : State) (a : EpAddr) (bs : List Byte) : (s.emitHost a bs).pma = s.pma := rfl
@[simp] theorem State.emitHost_ctrl (s : State) (a : EpAddr) (bs : List Byte) : (s.emitHost a bs).ctrl = s.ctrl := rfl
@[simp] theorem State.emitHost_filters (s : State) (a : EpAddr) (bs : List Byte) : (s.emitHost a bs).filters = s.filters := rfl
@[simp] theorem State.emitHost_br (s : State) (a : EpAddr) (bs : List Byte) : (s.emitHost a bs).br = s.br := rfl
@[simp] theorem State.emitHost_wireOut (s : State) (a : EpAddr) (bs : List Byte) : (s.emitHost a bs).wireOut = s.wireOut := rfl
@[simp] theorem State.emitHost_hostIn (s : State) (a : EpAddr) (bs : List Byte) : (s.emitHost a bs).hostIn = s.hostIn ++ [(a, bs)] := rfl
@[simp] theorem State.emitHost_stalls (s : State) (a : EpAddr) (bs : List Byte) : (s.emitHost a bs).stalls = s.stalls := rfl
@[simp] theorem State.emitHost_fault (s : State) (a : EpAddr) (bs : List Byte) : (s.emitHost a bs).fault = s.fault := rfl
@[simp] theorem State.emitHost_refused (s : State) (a : EpAddr) (bs : List Byte) : (s.emitHost a bs).refused = s.refused := rfl
@[simp] theorem State.emitHost_inbox (s : State) (a : EpAddr) (bs : List Byte) : (s.emitHost a bs).inbox = s.inbox := rfl
@[simp] theorem State.emitHost_reply (s : State) (a : EpAddr) (bs : List Byte) : (s.emitHost a bs).reply = s.reply := rfl
@[simp] theorem State.emitHost_draws (s : State) (a : EpAddr) (bs : List Byte) : (s.emitHost a bs).draws = s.draws := rfl

/-! ## `State.drew` -/

@[simp] theorem State.drew_rb0 (s : State) : (s.drew).rb0 = s.rb0 := rfl
@[simp] theorem State.drew_txrb (s : State) : (s.drew).txrb = s.txrb := rfl
@[simp] theorem State.drew_rx (s : State) : (s.drew).rx = s.rx := rfl
@[simp] theorem State.drew_uart (s : State) : (s.drew).uart = s.uart := rfl
@[simp] theorem State.drew_pin (s : State) : (s.drew).pin = s.pin := rfl
@[simp] theorem State.drew_usb (s : State) : (s.drew).usb = s.usb := rfl
@[simp] theorem State.drew_epOut (s : State) : (s.drew).epOut = s.epOut := rfl
@[simp] theorem State.drew_epIn (s : State) : (s.drew).epIn = s.epIn := rfl
@[simp] theorem State.drew_pma (s : State) : (s.drew).pma = s.pma := rfl
@[simp] theorem State.drew_ctrl (s : State) : (s.drew).ctrl = s.ctrl := rfl
@[simp] theorem State.drew_filters (s : State) : (s.drew).filters = s.filters := rfl
@[simp] theorem State.drew_br (s : State) : (s.drew).br = s.br := rfl
@[simp] theorem State.drew_wireOut (s : State) : (s.drew).wireOut = s.wireOut := rfl
@[simp] theorem State.drew_hostIn (s : State) : (s.drew).hostIn = s.hostIn := rfl
@[simp] theorem State.drew_stalls (s : State) : (s.drew).stalls = s.stalls := rfl
@[simp] theorem State.drew_fault (s : State) : (s.drew).fault = s.fault := rfl
@[simp] theorem State.drew_refused (s : State) : (s.drew).refused = s.refused := rfl
@[simp] theorem State.drew_inbox (s : State) : (s.drew).inbox = s.inbox := rfl
@[simp] theorem State.drew_reply (s : State) : (s.drew).reply = s.reply := rfl
@[simp] theorem State.drew_draws (s : State) : (s.drew).draws = s.draws + 1 := rfl

/-! ## `State.consume` -/

@[simp] theorem State.consume_rb0 (s : State) (rest : List Byte) : (s.consume rest).rb0 = s.rb0 := rfl
@[simp] theorem State.consume_txrb (s : State) (rest : List Byte) : (s.consume rest).txrb = s.txrb := rfl
@[simp] theorem State.consume_rx (s : State) (rest : List Byte) : (s.consume rest).rx = s.rx := rfl
@[simp] theorem State.consume_uart (s : State) (rest : List Byte) : (s.consume rest).uart = s.uart := rfl
@[simp] theorem State.consume_pin (s : State) (rest : List Byte) : (s.consume rest).pin = s.pin := rfl
@[simp] theorem State.consume_usb (s : State) (rest : List Byte) : (s.consume rest).usb = s.usb := rfl
@[simp] theorem State.consume_epOut (s : State) (rest : List Byte) : (s.consume rest).epOut = s.epOut := rfl
@[simp] theorem State.consume_epIn (s : State) (rest : List Byte) : (s.consume rest).epIn = s.epIn := rfl
@[simp] theorem State.consume_pma (s : State) (rest : List Byte) : (s.consume rest).pma = s.pma := rfl
@[simp] theorem State.consume_ctrl (s : State) (rest : List Byte) : (s.consume rest).ctrl = s.ctrl := rfl
@[simp] theorem State.consume_filters (s : State) (rest : List Byte) : (s.consume rest).filters = s.filters := rfl
@[simp] theorem State.consume_br (s : State) (rest : List Byte) : (s.consume rest).br = s.br := rfl
@[simp] theorem State.consume_wireOut (s : State) (rest : List Byte) : (s.consume rest).wireOut = s.wireOut := rfl
@[simp] theorem State.consume_hostIn (s : State) (rest : List Byte) : (s.consume rest).hostIn = s.hostIn := rfl
@[simp] theorem State.consume_stalls (s : State) (rest : List Byte) : (s.consume rest).stalls = s.stalls := rfl
@[simp] theorem State.consume_fault (s : State) (rest : List Byte) : (s.consume rest).fault = s.fault := rfl
@[simp] theorem State.consume_refused (s : State) (rest : List Byte) : (s.consume rest).refused = s.refused := rfl
@[simp] theorem State.consume_inbox (s : State) (rest : List Byte) : (s.consume rest).inbox = rest := rfl
@[simp] theorem State.consume_reply (s : State) (rest : List Byte) : (s.consume rest).reply = s.reply := rfl
@[simp] theorem State.consume_draws (s : State) (rest : List Byte) : (s.consume rest).draws = s.draws := rfl

/-! ## `State.enterCallback` -/

@[simp] theorem State.enterCallback_rb0 (s : State) (a : EpAddr) : (s.enterCallback a).rb0 = s.rb0 := rfl
@[simp] theorem State.enterCallback_txrb (s : State) (a : EpAddr) : (s.enterCallback a).txrb = s.txrb := rfl
@[simp] theorem State.enterCallback_rx (s : State) (a : EpAddr) : (s.enterCallback a).rx = s.rx := rfl
@[simp] theorem State.enterCallback_uart (s : State) (a : EpAddr) : (s.enterCallback a).uart = s.uart := rfl
@[simp] theorem State.enterCallback_pin (s : State) (a : EpAddr) : (s.enterCallback a).pin = s.pin := rfl
@[simp] theorem State.enterCallback_usb (s : State) (a : EpAddr) : (s.enterCallback a).usb = { s.usb with inCallback := some a } := rfl
@[simp] theorem State.enterCallback_epOut (s : State) (a : EpAddr) : (s.enterCallback a).epOut = s.epOut := rfl
@[simp] theorem State.enterCallback_epIn (s : State) (a : EpAddr) : (s.enterCallback a).epIn = s.epIn := rfl
@[simp] theorem State.enterCallback_pma (s : State) (a : EpAddr) : (s.enterCallback a).pma = s.pma := rfl
@[simp] theorem State.enterCallback_ctrl (s : State) (a : EpAddr) : (s.enterCallback a).ctrl = s.ctrl := rfl
@[simp] theorem State.enterCallback_filters (s : State) (a : EpAddr) : (s.enterCallback a).filters = s.filters := rfl
@[simp] theorem State.enterCallback_br (s : State) (a : EpAddr) : (s.enterCallback a).br = s.br := rfl
@[simp] theorem State.enterCallback_wireOut (s : State) (a : EpAddr) : (s.enterCallback a).wireOut = s.wireOut := rfl
@[simp] theorem State.enterCallback_hostIn (s : State) (a : EpAddr) : (s.enterCallback a).hostIn = s.hostIn := rfl
@[simp] theorem State.enterCallback_stalls (s : State) (a : EpAddr) : (s.enterCallback a).stalls = s.stalls := rfl
@[simp] theorem State.enterCallback_fault (s : State) (a : EpAddr) : (s.enterCallback a).fault = s.fault := rfl
@[simp] theorem State.enterCallback_refused (s : State) (a : EpAddr) : (s.enterCallback a).refused = s.refused := rfl
@[simp] theorem State.enterCallback_inbox (s : State) (a : EpAddr) : (s.enterCallback a).inbox = s.inbox := rfl
@[simp] theorem State.enterCallback_reply (s : State) (a : EpAddr) : (s.enterCallback a).reply = s.reply := rfl
@[simp] theorem State.enterCallback_draws (s : State) (a : EpAddr) : (s.enterCallback a).draws = s.draws := rfl

/-! ## `State.leaveCallback` -/

@[simp] theorem State.leaveCallback_rb0 (s : State) : (s.leaveCallback).rb0 = s.rb0 := rfl
@[simp] theorem State.leaveCallback_txrb (s : State) : (s.leaveCallback).txrb = s.txrb := rfl
@[simp] theorem State.leaveCallback_rx (s : State) : (s.leaveCallback).rx = s.rx := rfl
@[simp] theorem State.leaveCallback_uart (s : State) : (s.leaveCallback).uart = s.uart := rfl
@[simp] theorem State.leaveCallback_pin (s : State) : (s.leaveCallback).pin = s.pin := rfl
@[simp] theorem State.leaveCallback_usb (s : State) : (s.leaveCallback).usb = { s.usb with inCallback := none } := rfl
@[simp] theorem State.leaveCallback_epOut (s : State) : (s.leaveCallback).epOut = s.epOut := rfl
@[simp] theorem State.leaveCallback_epIn (s : State) : (s.leaveCallback).epIn = s.epIn := rfl
@[simp] theorem State.leaveCallback_pma (s : State) : (s.leaveCallback).pma = s.pma := rfl
@[simp] theorem State.leaveCallback_ctrl (s : State) : (s.leaveCallback).ctrl = s.ctrl := rfl
@[simp] theorem State.leaveCallback_filters (s : State) : (s.leaveCallback).filters = s.filters := rfl
@[simp] theorem State.leaveCallback_br (s : State) : (s.leaveCallback).br = s.br := rfl
@[simp] theorem State.leaveCallback_wireOut (s : State) : (s.leaveCallback).wireOut = s.wireOut := rfl
@[simp] theorem State.leaveCallback_hostIn (s : State) : (s.leaveCallback).hostIn = s.hostIn := rfl
@[simp] theorem State.leaveCallback_stalls (s : State) : (s.leaveCallback).stalls = s.stalls := rfl
@[simp] theorem State.leaveCallback_fault (s : State) : (s.leaveCallback).fault = s.fault := rfl
@[simp] theorem State.leaveCallback_refused (s : State) : (s.leaveCallback).refused = s.refused := rfl
@[simp] theorem State.leaveCallback_inbox (s : State) : (s.leaveCallback).inbox = s.inbox := rfl
@[simp] theorem State.leaveCallback_reply (s : State) : (s.leaveCallback).reply = s.reply := rfl
@[simp] theorem State.leaveCallback_draws (s : State) : (s.leaveCallback).draws = s.draws := rfl

/-! ## `State.stall` -/

@[simp] theorem State.stall_rb0 (s : State) : (s.stall).rb0 = s.rb0 := rfl
@[simp] theorem State.stall_txrb (s : State) : (s.stall).txrb = s.txrb := rfl
@[simp] theorem State.stall_rx (s : State) : (s.stall).rx = s.rx := rfl
@[simp] theorem State.stall_uart (s : State) : (s.stall).uart = s.uart := rfl
@[simp] theorem State.stall_pin (s : State) : (s.stall).pin = s.pin := rfl
@[simp] theorem State.stall_usb (s : State) : (s.stall).usb = s.usb := rfl
@[simp] theorem State.stall_epOut (s : State) : (s.stall).epOut = s.epOut := rfl
@[simp] theorem State.stall_epIn (s : State) : (s.stall).epIn = s.epIn := rfl
@[simp] theorem State.stall_pma (s : State) : (s.stall).pma = s.pma := rfl
@[simp] theorem State.stall_ctrl (s : State) : (s.stall).ctrl = { s.ctrl with state := .STALLED, in0 := .EMPTY, onDone := none, zlp := false } := rfl
@[simp] theorem State.stall_filters (s : State) : (s.stall).filters = s.filters := rfl
@[simp] theorem State.stall_br (s : State) : (s.stall).br = s.br := rfl
@[simp] theorem State.stall_wireOut (s : State) : (s.stall).wireOut = s.wireOut := rfl
@[simp] theorem State.stall_hostIn (s : State) : (s.stall).hostIn = s.hostIn := rfl
@[simp] theorem State.stall_stalls (s : State) : (s.stall).stalls = s.stalls + 1 := rfl
@[simp] theorem State.stall_fault (s : State) : (s.stall).fault = s.fault := rfl
@[simp] theorem State.stall_refused (s : State) : (s.stall).refused = s.refused := rfl
@[simp] theorem State.stall_inbox (s : State) : (s.stall).inbox = s.inbox := rfl
@[simp] theorem State.stall_reply (s : State) : (s.stall).reply = s.reply := rfl
@[simp] theorem State.stall_draws (s : State) : (s.stall).draws = s.draws := rfl

/-! ## `State.mapEps` -/

@[simp] theorem State.mapEps_rb0 (s : State) (f : Endpoint → Endpoint) : (s.mapEps f).rb0 = s.rb0 := rfl
@[simp] theorem State.mapEps_txrb (s : State) (f : Endpoint → Endpoint) : (s.mapEps f).txrb = s.txrb := rfl
@[simp] theorem State.mapEps_rx (s : State) (f : Endpoint → Endpoint) : (s.mapEps f).rx = s.rx := rfl
@[simp] theorem State.mapEps_uart (s : State) (f : Endpoint → Endpoint) : (s.mapEps f).uart = s.uart := rfl
@[simp] theorem State.mapEps_pin (s : State) (f : Endpoint → Endpoint) : (s.mapEps f).pin = s.pin := rfl
@[simp] theorem State.mapEps_usb (s : State) (f : Endpoint → Endpoint) : (s.mapEps f).usb = s.usb := rfl
@[simp] theorem State.mapEps_epOut (s : State) (f : Endpoint → Endpoint) : (s.mapEps f).epOut = mapBank f s.epOut := rfl
@[simp] theorem State.mapEps_epIn (s : State) (f : Endpoint → Endpoint) : (s.mapEps f).epIn = mapBank f s.epIn := rfl
@[simp] theorem State.mapEps_pma (s : State) (f : Endpoint → Endpoint) : (s.mapEps f).pma = s.pma := rfl
@[simp] theorem State.mapEps_ctrl (s : State) (f : Endpoint → Endpoint) : (s.mapEps f).ctrl = s.ctrl := rfl
@[simp] theorem State.mapEps_filters (s : State) (f : Endpoint → Endpoint) : (s.mapEps f).filters = s.filters := rfl
@[simp] theorem State.mapEps_br (s : State) (f : Endpoint → Endpoint) : (s.mapEps f).br = s.br := rfl
@[simp] theorem State.mapEps_wireOut (s : State) (f : Endpoint → Endpoint) : (s.mapEps f).wireOut = s.wireOut := rfl
@[simp] theorem State.mapEps_hostIn (s : State) (f : Endpoint → Endpoint) : (s.mapEps f).hostIn = s.hostIn := rfl
@[simp] theorem State.mapEps_stalls (s : State) (f : Endpoint → Endpoint) : (s.mapEps f).stalls = s.stalls := rfl
@[simp] theorem State.mapEps_fault (s : State) (f : Endpoint → Endpoint) : (s.mapEps f).fault = s.fault := rfl
@[simp] theorem State.mapEps_refused (s : State) (f : Endpoint → Endpoint) : (s.mapEps f).refused = s.refused := rfl
@[simp] theorem State.mapEps_inbox (s : State) (f : Endpoint → Endpoint) : (s.mapEps f).inbox = s.inbox := rfl
@[simp] theorem State.mapEps_reply (s : State) (f : Endpoint → Endpoint) : (s.mapEps f).reply = s.reply := rfl
@[simp] theorem State.mapEps_draws (s : State) (f : Endpoint → Endpoint) : (s.mapEps f).draws = s.draws := rfl

/-! ## `State.gatherFlags` -/

@[simp] theorem State.gatherFlags_rb0 (s : State) : (s.gatherFlags).rb0 = s.rb0 := rfl
@[simp] theorem State.gatherFlags_txrb (s : State) : (s.gatherFlags).txrb = s.txrb := rfl
@[simp] theorem State.gatherFlags_rx (s : State) : (s.gatherFlags).rx = s.rx := rfl
@[simp] theorem State.gatherFlags_uart (s : State) : (s.gatherFlags).uart = { s.uart with overrun := false, parityErr := false } := rfl
@[simp] theorem State.gatherFlags_pin (s : State) : (s.gatherFlags).pin = s.pin := rfl
@[simp] theorem State.gatherFlags_usb (s : State) : (s.gatherFlags).usb = s.usb := rfl
@[simp] theorem State.gatherFlags_epOut (s : State) : (s.gatherFlags).epOut = s.epOut := rfl
@[simp] theorem State.gatherFlags_epIn (s : State) : (s.gatherFlags).epIn = s.epIn := rfl
@[simp] theorem State.gatherFlags_pma (s : State) : (s.gatherFlags).pma = s.pma := rfl
@[simp] theorem State.gatherFlags_ctrl (s : State) : (s.gatherFlags).ctrl = s.ctrl := rfl
@[simp] theorem State.gatherFlags_filters (s : State) : (s.gatherFlags).filters = s.filters := rfl
@[simp] theorem State.gatherFlags_br (s : State) : (s.gatherFlags).br = { s.br with pending :=
      s.br.pending ||| (if s.uart.overrun then overrunBit else 0) ||| (if s.uart.parityErr then parityBit else 0) } := rfl
@[simp] theorem State.gatherFlags_wireOut (s : State) : (s.gatherFlags).wireOut = s.wireOut := rfl
@[simp] theorem State.gatherFlags_hostIn (s : State) : (s.gatherFlags).hostIn = s.hostIn := rfl
@[simp] theorem State.gatherFlags_stalls (s : State) : (s.gatherFlags).stalls = s.stalls := rfl
@[simp] theorem State.gatherFlags_fault (s : State) : (s.gatherFlags).fault = s.fault := rfl
@[simp] theorem State.gatherFlags_refused (s : State) : (s.gatherFlags).refused = s.refused := rfl
@[simp] theorem State.gatherFlags_inbox (s : State) : (s.gatherFlags).inbox = s.inbox := rfl
@[simp] theorem State.gatherFlags_reply (s : State) : (s.gatherFlags).reply = s.reply := rfl
@[simp] theorem State.gatherFlags_draws (s : State) : (s.gatherFlags).draws = s.draws := rfl

/-! ## `State.uartSetDtr` -/

@[simp] theorem State.uartSetDtr_rb0 (s : State) (b : Bool) : (s.uartSetDtr b).rb0 = s.rb0 := rfl
@[simp] theorem State.uartSetDtr_txrb (s : State) (b : Bool) : (s.uartSetDtr b).txrb = s.txrb := rfl
@[simp] theorem State.uartSetDtr_rx (s : State) (b : Bool) : (s.uartSetDtr b).rx = s.rx := rfl
@[simp] theorem State.uartSetDtr_uart (s : State) (b : Bool) : (s.uartSetDtr b).uart = s.uart := rfl
@[simp] theorem State.uartSetDtr_pin (s : State) (b : Bool) : (s.uartSetDtr b).pin = { s.pin with dtr := b } := rfl
@[simp] theorem State.uartSetDtr_usb (s : State) (b : Bool) : (s.uartSetDtr b).usb = s.usb := rfl
@[simp] theorem State.uartSetDtr_epOut (s : State) (b : Bool) : (s.uartSetDtr b).epOut = s.epOut := rfl
@[simp] theorem State.uartSetDtr_epIn (s : State) (b : Bool) : (s.uartSetDtr b).epIn = s.epIn := rfl
@[simp] theorem State.uartSetDtr_pma (s : State) (b : Bool) : (s.uartSetDtr b).pma = s.pma := rfl
@[simp] theorem State.uartSetDtr_ctrl (s : State) (b : Bool) : (s.uartSetDtr b).ctrl = s.ctrl := rfl
@[simp] theorem State.uartSetDtr_filters (s : State) (b : Bool) : (s.uartSetDtr b).filters = s.filters := rfl
@[simp] theorem State.uartSetDtr_br (s : State) (b : Bool) : (s.uartSetDtr b).br = s.br := rfl
@[simp] theorem State.uartSetDtr_wireOut (s : State) (b : Bool) : (s.uartSetDtr b).wireOut = s.wireOut := rfl
@[simp] theorem State.uartSetDtr_hostIn (s : State) (b : Bool) : (s.uartSetDtr b).hostIn = s.hostIn := rfl
@[simp] theorem State.uartSetDtr_stalls (s : State) (b : Bool) : (s.uartSetDtr b).stalls = s.stalls := rfl
@[simp] theorem State.uartSetDtr_fault (s : State) (b : Bool) : (s.uartSetDtr b).fault = s.fault := rfl
@[simp] theorem State.uartSetDtr_refused (s : State) (b : Bool) : (s.uartSetDtr b).refused = s.refused := rfl
@[simp] theorem State.uartSetDtr_inbox (s : State) (b : Bool) : (s.uartSetDtr b).inbox = s.inbox := rfl
@[simp] theorem State.uartSetDtr_reply (s : State) (b : Bool) : (s.uartSetDtr b).reply = s.reply := rfl
@[simp] theorem State.uartSetDtr_draws (s : State) (b : Bool) : (s.uartSetDtr b).draws = s.draws := rfl

/-! ## `State.setEp` -/

@[simp] theorem State.setEp_rb0 (s : State) (a : EpAddr) (e : Endpoint) : (s.setEp a e).rb0 = s.rb0 := by
  unfold State.setEp; split <;> rfl
@[simp] theorem State.setEp_txrb (s : State) (a : EpAddr) (e : Endpoint) : (s.setEp a e).txrb = s.txrb := by
  unfold State.setEp; split <;> rfl
@[simp] theorem State.setEp_rx (s : State) (a : EpAddr) (e : Endpoint) : (s.setEp a e).rx = s.rx := by
  unfold State.setEp; split <;> rfl
@[simp] theorem State.setEp_uart (s : State) (a : EpAddr) (e : Endpoint) : (s.setEp a e).uart = s.uart := by
  unfold State.setEp; split <;> rfl
@[simp] theorem State.setEp_pin (s : State) (a : EpAddr) (e : Endpoint) : (s.setEp a e).pin = s.pin := by
  unfold State.setEp; split <;> rfl
@[simp] theorem State.setEp_usb (s : State) (a : EpAddr) (e : Endpoint) : (s.setEp a e).usb = s.usb := by
  unfold State.setEp; split <;> rfl
@[simp] theorem State.setEp_pma (s : State) (a : EpAddr) (e : Endpoint) : (s.setEp a e).pma = s.pma := by
  unfold State.setEp; split <;> rfl
@[simp] theorem State.setEp_ctrl (s : State) (a : EpAddr) (e : Endpoint) : (s.setEp a e).ctrl = s.ctrl := by
  unfold State.setEp; split <;> rfl
@[simp] theorem State.setEp_filters (s : State) (a : EpAddr) (e : Endpoint) : (s.setEp a e).filters = s.filters := by
  unfold State.setEp; split <;> rfl
@[simp] theorem State.setEp_br (s : State) (a : EpAddr) (e : Endpoint) : (s.setEp a e).br = s.br := by
  unfold State.setEp; split <;> rfl
@[simp] theorem State.setEp_wireOut (s : State) (a : EpAddr) (e : Endpoint) : (s.setEp a e).wireOut = s.wireOut := by
  unfold State.setEp; split <;> rfl
@[simp] theorem State.setEp_hostIn (s : State) (a : EpAddr) (e : Endpoint) : (s.setEp a e).hostIn = s.hostIn := by
  unfold State.setEp; split <;> rfl
@[simp] theorem State.setEp_stalls (s : State) (a : EpAddr) (e : Endpoint) : (s.setEp a e).stalls = s.stalls := by
  unfold State.setEp; split <;> rfl
@[simp] theorem State.setEp_fault (s : State) (a : EpAddr) (e : Endpoint) : (s.setEp a e).fault = s.fault := by
  unfold State.setEp; split <;> rfl
@[simp] theorem State.setEp_refused (s : State) (a : EpAddr) (e : Endpoint) : (s.setEp a e).refused = s.refused := by
  unfold State.setEp; split <;> rfl
@[simp] theorem State.setEp_inbox (s : State) (a : EpAddr) (e : Endpoint) : (s.setEp a e).inbox = s.inbox := by
  unfold State.setEp; split <;> rfl
@[simp] theorem State.setEp_reply (s : State) (a : EpAddr) (e : Endpoint) : (s.setEp a e).reply = s.reply := by
  unfold State.setEp; split <;> rfl
@[simp] theorem State.setEp_draws (s : State) (a : EpAddr) (e : Endpoint) : (s.setEp a e).draws = s.draws := by
  unfold State.setEp; split <;> rfl

end Sys2Proof.Machine
end

