-- ==== Sys2Proof/Laws/Ops.lean ====
section
/-! SUPPORT. One lemma for each shared operation of `Machine/Ops.lean` and `Machine/Operands.lean`: what it can answer. -/

namespace Sys2Proof.Machine

/-! ## Stopping -/

theorem checkSpace_eq_ok {sp : Space} {a n : Nat} : checkSpace sp a n = .ok () ↔ a + n ≤ sp.size := by
  unfold checkSpace
  split <;> simp_all

theorem checkSpace_eq_error {sp : Space} {a n : Nat} {x : Stop} :
    checkSpace sp a n = .error x ↔ sp.size < a + n ∧ x = .outside sp := by
  unfold checkSpace
  split <;> rename_i h
  · simp only [reduceCtorEq, false_iff, not_and]
    intro h'
    omega
  · simp only [Except.error.injEq]
    exact ⟨fun e => ⟨by omega, e.symm⟩, fun e => e.2.symm⟩

/-- The outcome of a step is the operation's, or a fault mark on the state before it. -/
theorem State.conclude_eq_next {s t : State} {r : Except Stop State} :
    s.conclude r = .next t ↔ r = .ok t ∨ ∃ c, r = .error (.misuse c) ∧ t = s.raise c := by
  unfold State.conclude
  rcases r with x | u
  · cases x with
    | misuse c => simp [eq_comm]
    | outside sp => simp
  · simp

@[simp] theorem State.conclude_ok (s t : State) : s.conclude (.ok t) = .next t := rfl
@[simp] theorem State.conclude_misuse (s : State) (c : FaultCode) :
    s.conclude (.error (.misuse c)) = .next (s.raise c) := rfl
@[simp] theorem State.conclude_outside (s : State) (sp : Space) :
    s.conclude (.error (.outside sp)) = .fault (.outsideSpace sp) := rfl

/-- A mapped operation ends exactly when the operation does. -/
theorem except_map_eq_ok {α β : Type} {f : α → β} {r : Except Stop α} {b : β} :
    r.map f = .ok b ↔ ∃ a, r = .ok a ∧ f a = b := by
  cases r <;> simp [Except.map]

theorem except_map_eq_error {α β : Type} {f : α → β} {r : Except Stop α} {x : Stop} :
    r.map f = .error x ↔ r = .error x := by
  cases r <;> simp [Except.map]

/-! ## Endpoint addresses (30_encoding.md R85) -/

@[simp] theorem epAddrOfByte_toByte (a : EpAddr) : epAddrOfByte (epAddrToByte a) = some a := by
  obtain ⟨d, n⟩ := a
  revert n
  cases d <;> decide

/-- A legal byte is the byte form of the address it encodes. -/
theorem epAddrToByte_ofByte {b : Byte} {a : EpAddr} (h : epAddrOfByte b = some a) : b = epAddrToByte a := by
  revert a
  revert b
  have key : ∀ b : Byte, (epAddrOfByte b).all (fun a => decide (b = epAddrToByte a)) = true := by decide +kernel
  intro b a h
  have := key b
  rw [h] at this
  simpa using this

/-- A byte is illegal when bits 6:4 are not zero or the number is not below `NUM_EP`. -/
theorem epAddrOfByte_eq_none {b : Byte} :
    epAddrOfByte b = none ↔ b.extractLsb' 4 3 ≠ 0#3 ∨ Config.numEp ≤ (b.extractLsb' 0 4).toNat := by
  unfold epAddrOfByte
  split
  · split <;> rename_i h1 h2 <;> simp [h1] at h2 ⊢ <;> omega
  · rename_i h; simp [h]

@[simp] theorem epTypeOf_bits (t : EpType) : epTypeOf (epTypeBits t) = some t := by cases t <;> rfl

/-! ## Endpoints -/

/-- There is no endpoint 0 in the banks. -/
theorem State.ep_zero {s : State} {a : EpAddr} (h : a.num.val = 0) : s.ep a = Endpoint.reset a.dir := by
  unfold State.ep
  split
  · rfl
  · omega

/-- Reading back the endpoint that was stored. -/
theorem State.ep_setEp_self (s : State) {a : EpAddr} (e : Endpoint) (h : a.num.val ≠ 0) : (s.setEp a e).ep a = e := by
  obtain ⟨d, ⟨n, hn⟩⟩ := a
  cases n with
  | zero => exact absurd rfl h
  | succ k =>
    have hk : k < 7 := by simp only [Config.numEp] at hn; omega
    cases d <;> simp [State.setEp, State.ep, State.bank, hk]

/-- Storing one endpoint leaves the others alone. -/
theorem State.ep_setEp_other (s : State) {a b : EpAddr} (e : Endpoint) (h : b ≠ a) : (s.setEp a e).ep b = s.ep b := by
  obtain ⟨d, ⟨n, hn⟩⟩ := a
  obtain ⟨d', ⟨n', hn'⟩⟩ := b
  cases n with
  | zero => rfl
  | succ k =>
    cases n' with
    | zero => simp [State.ep]
    | succ k' =>
      cases d <;> cases d' <;> simp [State.setEp, State.ep, State.bank]
      all_goals
        have hne : k ≠ k' := by rintro rfl; exact h rfl
        rw [Vector.getElem?_setIfInBounds_ne hne]

theorem mapBank_getElem (f : Endpoint → Endpoint) (v : Vector Endpoint (Config.numEp - 1)) (k : Nat) (h : k < 7) :
    (mapBank f v)[k] = f v[k] := by
  simp [mapBank]

/-- A change of every endpoint, seen at one. -/
theorem State.ep_mapEps (s : State) (f : Endpoint → Endpoint) {a : EpAddr} (h : a.num.val ≠ 0) :
    (s.mapEps f).ep a = f (s.ep a) := by
  obtain ⟨d, ⟨n, hn⟩⟩ := a
  cases n with
  | zero => exact absurd rfl h
  | succ k =>
    have hk : k < 7 := by simp only [Config.numEp] at hn; omega
    cases d
    · simpa [State.ep, State.bank, State.mapEps, hk] using mapBank_getElem f s.epOut k hk
    · simpa [State.ep, State.bank, State.mapEps, hk] using mapBank_getElem f s.epIn k hk

/-- The endpoints depend on the two banks alone. -/
theorem State.ep_congr {s t : State} (ho : t.epOut = s.epOut) (hi : t.epIn = s.epIn) (a : EpAddr) : t.ep a = s.ep a := by
  unfold State.ep State.bank
  cases a.dir <;> simp [ho, hi]

@[simp] theorem Endpoint.slot_setSlot_self (e : Endpoint) (i : Fin 2) (sl : Slot) : (e.setSlot i sl).slot i = sl := by
  unfold Endpoint.setSlot Endpoint.slot; split <;> simp

theorem Endpoint.slot_setSlot_other (e : Endpoint) {i j : Fin 2} (sl : Slot) (h : j ≠ i) :
    (e.setSlot i sl).slot j = e.slot j := by
  unfold Endpoint.setSlot Endpoint.slot
  by_cases hi : i = 0 <;> by_cases hj : j = 0 <;> simp_all
  omega

/-- Replacing a slot changes no other field. -/
theorem Endpoint.setSlot_rest (e : Endpoint) (i : Fin 2) (sl : Slot) :
    e.setSlot i sl = { e with slot0 := (e.setSlot i sl).slot0, slot1 := (e.setSlot i sl).slot1 } := by
  unfold Endpoint.setSlot; split <;> rfl

/-! ## Storage as the state sees it -/

theorem State.readByte_eq (s : State) (sp : Space) (a : Nat) : s.readByte sp a = (s.space sp).read a := rfl

@[simp] theorem Space.size_rb0 : Space.rb0.size = 1024 := rfl
@[simp] theorem Space.size_txrb : Space.txrb.size = 1024 := rfl
@[simp] theorem Space.size_rxrb : Space.rxrb.size = 1024 := rfl
@[simp] theorem Space.size_pma : Space.pma.size = 512 := rfl
@[simp] theorem Space.size_cbuf : Space.cbuf.size = 256 := rfl

end Sys2Proof.Machine
end

