-- ==== Sys2Proof/Laws/Endpoint.lean ====
section
/-! SUPPORT. What each operation of the endpoint engine can do. -/

namespace Sys2Proof.Machine

/-! ## Legality -/

theorem State.epFor_eq_ok {s : State} {d : Dir} {a : EpAddr} {e : Endpoint} :
    s.epFor d a = .ok e ↔ a.dir = d ∧ (s.ep a).cfg = true ∧ e = s.ep a := by
  unfold State.epFor
  split <;> rename_i h
  · simp [h.1, h.2, eq_comm]
  · simp only [reduceCtorEq, false_iff]
    exact fun h' => h ⟨h'.1, h'.2.1⟩

theorem State.epFor_eq_error {s : State} {d : Dir} {a : EpAddr} {x : Stop} :
    s.epFor d a = .error x ↔ (a.dir ≠ d ∨ (s.ep a).cfg = false) ∧ x = .misuse .EP_NOT_CONFIGURED := by
  unfold State.epFor
  split <;> rename_i h
  · simp [h.1, h.2]
  · simp only [Except.error.injEq, eq_comm, iff_and_self]
    intro _
    by_cases hd : a.dir = d
    · exact .inr (by simpa [hd] using h)
    · exact .inl hd

theorem State.epAny_eq_ok {s : State} {a : EpAddr} {e : Endpoint} :
    s.epAny a = .ok e ↔ (s.ep a).cfg = true ∧ e = s.ep a := by
  unfold State.epAny
  split <;> rename_i h <;> simp [h, eq_comm]

theorem State.epAny_eq_error {s : State} {a : EpAddr} {x : Stop} :
    s.epAny a = .error x ↔ (s.ep a).cfg = false ∧ x = .misuse .EP_NOT_CONFIGURED := by
  unfold State.epAny
  split <;> rename_i h
  · simp [h]
  · simp only [Bool.not_eq_true] at h
    simp only [h, true_and, Except.error.injEq]
    exact eq_comm

/-- A configured endpoint is not endpoint 0. -/
theorem State.num_ne_zero_of_cfg {s : State} {a : EpAddr} (h : (s.ep a).cfg = true) : a.num.val ≠ 0 := by
  intro h0
  rw [State.ep_zero h0] at h
  exact absurd h (by simp [Endpoint.reset])

/-! ## Synchronisation (R184) -/

@[simp] theorem Slot.release_held {sl : Slot} (h : sl.state = .HELD) : sl.release = { sl with state := .FREE } := by
  simp [Slot.release, h]

@[simp] theorem Slot.release_other {sl : Slot} (h : sl.state ≠ .HELD) : sl.release = sl := by
  simp [Slot.release, h]

theorem Endpoint.sync_synced (e : Endpoint) : e.Synced e.sync := by
  unfold Endpoint.sync
  refine ⟨by split <;> rfl, fun h => by simp [h], fun h => ?_, fun h i hi hs => ?_, fun i hs => ?_⟩
  · split
    · rfl
    · simp [h]
  · simp only [h, Bool.false_eq_true, if_false, Endpoint.slot] at hs ⊢
    split at hs
    · rename_i h0; simp [h0, hs]
    · rename_i h0
      have hd : e.dbl = true := hi.resolve_left h0
      simp [h0, hd, hs]
  · simp only [Endpoint.slot] at hs ⊢
    split at hs <;> rename_i h0 <;> simp only [h0, if_true, if_false]
    · split
      · rfl
      · simp [hs]
    · split
      · rfl
      · split <;> simp [hs]

@[simp] theorem Endpoint.sync_hwstat (e : Endpoint) : e.sync.hwstat = e.wantStat := rfl
@[simp] theorem Endpoint.sync_syncPending (e : Endpoint) : e.sync.syncPending = false := rfl

/-- `sync_or_defer` changes the one endpoint. -/
theorem State.syncOrDefer_eq (s : State) (a : EpAddr) (e : Endpoint) :
    s.syncOrDefer a e =
      s.setEp a (if s.usb.inCallback = some a then { e with syncPending := true } else e.sync) := by
  unfold State.syncOrDefer
  split <;> rfl

/-! ## EP_SETUP -/

/-- EP_SETUP that ends: the endpoint set up, the allocation mark moved, and nothing else. -/
theorem State.epSetup_eq_ok {s t : State} {a : EpAddr} {n : Nat} {ty : EpType} : s.epSetup a n ty = .ok t ↔
    a.num.val ≠ 0 ∧ n ≠ 0 ∧ setupFinal s.usb.pmaNext n ty ≤ Config.pmaBytes ∧
    t = { s with usb := { s.usb with pmaNext := setupFinal s.usb.pmaNext n ty } }.setEp a
      ((s.ep a).setUp a s.usb.pmaNext n ty) := by
  unfold State.epSetup
  by_cases h0 : a.num.val = 0
  · simp [h0]
  by_cases h1 : n = 0
  · simp [h0, h1]
  by_cases h2 : Config.pmaBytes < setupFinal s.usb.pmaNext n ty
  · simp only [h0, h1, h2, if_true, if_false, reduceCtorEq, false_iff]
    intro h
    omega
  · simp only [h0, h1, h2, if_false, Except.ok.injEq, ne_eq, not_false_eq_true, true_and]
    exact ⟨fun h => ⟨by omega, h.symm⟩, fun h => h.2.symm⟩

/-- A set-up endpoint is VALID. -/
theorem Endpoint.setUp_hwstat (e : Endpoint) (a : EpAddr) (b n : Nat) (ty : EpType) :
    (e.setUp a b n ty).hwstat = .VALID := rfl

/-! ## Packets -/

/-- EP_TRANSMIT_PACKET that ends: busy, or the packet in the slot software writes next. -/
theorem State.epTransmit_eq_ok {s t : State} {a : EpAddr} {data : List Byte} {c : ResultCode} :
    s.epTransmit a data = .ok (t, c) ↔
    a.dir = .IN ∧ (s.ep a).cfg = true ∧ data.length ≤ (s.ep a).mps ∧
    (((s.ep a).inFlight = (s.ep a).K ∧ t = s ∧ c = .BUSY) ∨
     ((s.ep a).inFlight ≠ (s.ep a).K ∧ ((s.ep a).slot (s.ep a).swIdx).pma + data.length ≤ Config.pmaBytes ∧
      t = { s with pma := s.pma.writeBytes ((s.ep a).slot (s.ep a).swIdx).pma data }.setEp a
        { (s.ep a).setSlot (s.ep a).swIdx
            { (s.ep a).slot (s.ep a).swIdx with len := data.length, state := .LOADED } with
          swNext := (s.ep a).succ (s.ep a).swIdx } ∧ c = .OK)) := by
  unfold State.epTransmit
  split
  · rename_i x hx
    rw [State.epFor_eq_error] at hx
    simp only [reduceCtorEq, false_iff]
    rintro ⟨h1, h2, -⟩
    rcases hx.1 with h | h
    · exact h h1
    · rw [h] at h2; cases h2
  · rename_i e he
    obtain ⟨h1, h2, rfl⟩ := State.epFor_eq_ok.1 he
    simp only [h1, h2, true_and]
    split
    · simp only [reduceCtorEq, false_iff]
      intro h; omega
    · rename_i hlen
      simp only [Nat.not_lt] at hlen
      simp only [hlen, true_and]
      split
      · rename_i hb
        simp [hb, eq_comm]
      · rename_i hb
        simp only [hb, false_and, false_or, ne_eq, not_false_eq_true, true_and]
        split
        · rename_i x hx
          rw [checkSpace_eq_error] at hx
          simp only [reduceCtorEq, false_iff]
          intro h
          have := hx.1
          have := h.1
          simp only [Space.size] at *
          omega
        · rename_i hx
          rw [checkSpace_eq_ok] at hx
          simp only [Space.size] at hx
          simp [hx, eq_comm]

/-- EP_TRANSMIT_PACKET that does not end. -/
theorem State.epTransmit_eq_error {s : State} {a : EpAddr} {data : List Byte} {x : Stop}
    (h : s.epTransmit a data = .error x) :
    ((a.dir ≠ .IN ∨ (s.ep a).cfg = false) ∧ x = .misuse .EP_NOT_CONFIGURED) ∨
    ((s.ep a).mps < data.length ∧ x = .misuse .PACKET_TOO_LONG) ∨
    (Config.pmaBytes < ((s.ep a).slot (s.ep a).swIdx).pma + data.length ∧ x = .outside .pma) := by
  unfold State.epTransmit at h
  split at h
  · rename_i y hy
    cases h
    exact .inl (State.epFor_eq_error.1 hy)
  · rename_i e he
    obtain ⟨-, -, rfl⟩ := State.epFor_eq_ok.1 he
    split at h
    · rename_i hl; cases h; exact .inr (.inl ⟨hl, rfl⟩)
    · split at h
      · cases h
      · simp only at h
        split at h
        · rename_i y hy
          cases h
          rw [checkSpace_eq_error] at hy
          exact .inr (.inr hy)
        · cases h

/-- EP_READ_PACKET that ends: no packet, or the packet of the slot software reads next. -/
theorem State.epReadPacket_eq_ok {s t : State} {a : EpAddr} {limit : Nat} {r : Option (List Byte)} :
    s.epReadPacket a limit = .ok (t, r) ↔
    a.dir = .OUT ∧ (s.ep a).cfg = true ∧ s.usb.inCallback = some a ∧
    ((((s.ep a).slot (s.ep a).swIdx).state ≠ .FULL ∧ t = s ∧ r = none) ∨
     (((s.ep a).slot (s.ep a).swIdx).state = .FULL ∧ ((s.ep a).slot (s.ep a).swIdx).len ≤ limit ∧
      ((s.ep a).slot (s.ep a).swIdx).pma + ((s.ep a).slot (s.ep a).swIdx).len ≤ Config.pmaBytes ∧
      t = s.setEp a { (s.ep a).setSlot (s.ep a).swIdx
          { (s.ep a).slot (s.ep a).swIdx with state := if (s.ep a).paused then .HELD else .FREE } with
        swNext := (s.ep a).succ (s.ep a).swIdx } ∧
      r = some (s.slotBytes ((s.ep a).slot (s.ep a).swIdx)))) := by
  unfold State.epReadPacket
  split
  · rename_i x hx
    rw [State.epFor_eq_error] at hx
    simp only [reduceCtorEq, false_iff]
    rintro ⟨h1, h2, -⟩
    rcases hx.1 with h | h
    · exact h h1
    · rw [h] at h2; cases h2
  · rename_i e he
    obtain ⟨h1, h2, rfl⟩ := State.epFor_eq_ok.1 he
    simp only [h1, h2, true_and]
    split
    · rename_i hc
      simp only [reduceCtorEq, false_iff]
      exact fun h => hc h.1
    · rename_i hc
      simp only [ne_eq, not_not] at hc
      simp only [hc, true_and]
      split
      · rename_i hf
        simp only [Except.ok.injEq, Prod.mk.injEq]
        exact ⟨fun h => .inl ⟨hf, h.1.symm, h.2.symm⟩,
          fun h => h.elim (fun h => ⟨h.2.1.symm, h.2.2.symm⟩) (fun h => absurd h.1 hf)⟩
      · rename_i hf
        simp only [ne_eq, not_not] at hf
        simp only [hf, ne_eq, not_true_eq_false, false_and, false_or, true_and]
        split
        · simp only [reduceCtorEq, false_iff]
          intro h; omega
        · rename_i hl
          simp only [Nat.not_lt] at hl
          simp only [hl, true_and]
          split
          · rename_i x hx
            rw [checkSpace_eq_error] at hx
            simp only [reduceCtorEq, false_iff]
            intro h
            have := hx.1
            have := h.1
            simp only [Space.size] at *
            omega
          · rename_i hx
            rw [checkSpace_eq_ok] at hx
            simp only [Space.size] at hx
            simp only [Except.ok.injEq, Prod.mk.injEq]
            exact ⟨fun h => ⟨hx, h.1.symm, h.2.symm⟩, fun h => ⟨h.2.1.symm, h.2.2.symm⟩⟩

/-- EV_EP_IN_DONE's effect that ends. -/
theorem State.epInDone_eq_ok {s t : State} {a : EpAddr} : s.epInDone a = .ok t ↔
    ((s.ep a).slot (s.ep a).hwIdx).pma + ((s.ep a).slot (s.ep a).hwIdx).len ≤ Config.pmaBytes ∧
    t = (s.emitHost a (s.slotBytes ((s.ep a).slot (s.ep a).hwIdx))).setEp a
      { (s.ep a).setSlot (s.ep a).hwIdx { (s.ep a).slot (s.ep a).hwIdx with state := .EMPTY, len := 0 } with
        hwNext := (s.ep a).succ (s.ep a).hwIdx } := by
  unfold State.epInDone
  simp only
  split
  · rename_i x hx
    rw [checkSpace_eq_error] at hx
    simp only [reduceCtorEq, false_iff]
    intro h
    have := hx.1
    have := h.1
    simp only [Space.size] at *
    omega
  · rename_i hx
    rw [checkSpace_eq_ok] at hx
    simp only [Space.size] at hx
    simp [hx, eq_comm]

/-- EV_EP_OUT's effect that ends. -/
theorem State.epOutPacket_eq_ok {s t : State} {a : EpAddr} {data : List Byte} : s.epOutPacket a data = .ok t ↔
    ((s.ep a).slot (s.ep a).hwIdx).pma + data.length ≤ Config.pmaBytes ∧
    t = { s with pma := s.pma.writeBytes ((s.ep a).slot (s.ep a).hwIdx).pma data }.setEp a
      { (s.ep a).setSlot (s.ep a).hwIdx
          { (s.ep a).slot (s.ep a).hwIdx with len := data.length, state := .FULL } with
        hwNext := (s.ep a).succ (s.ep a).hwIdx, irq := (s.ep a).irq + 1 } := by
  unfold State.epOutPacket
  simp only
  split
  · rename_i x hx
    rw [checkSpace_eq_error] at hx
    simp only [reduceCtorEq, false_iff]
    intro h
    have := hx.1
    have := h.1
    simp only [Space.size] at *
    omega
  · rename_i hx
    rw [checkSpace_eq_ok] at hx
    simp only [Space.size] at hx
    simp [hx, eq_comm]

/-! ## Deconfiguration -/

theorem State.ep_deconfigureAll (s : State) (a : EpAddr) : s.deconfigureAll.ep a = Endpoint.reset a.dir := by
  obtain ⟨d, ⟨n, hn⟩⟩ := a
  cases n with
  | zero => rfl
  | succ k =>
    have hk : k < 7 := by simp only [Config.numEp] at hn; omega
    cases d <;> simp [State.ep, State.bank, State.deconfigureAll, hk]

end Sys2Proof.Machine
end

