-- ==== Sys2Proof/Laws/Ring.lean ====
section
/-! SUPPORT. What `put` and `take` do to a ring, and the ring's counts. -/

namespace Sys2Proof.Machine

theorem modSub_eq {a b n : Nat} (ha : a < n) (hb : b < n) : modSub a b n = if b ≤ a then a - b else a + n - b := by
  unfold modSub
  rw [Nat.mod_eq_of_lt hb]
  split
  · rw [show a + (n - b) = a - b + n by omega, Nat.add_mod_right, Nat.mod_eq_of_lt (by omega)]
  · rw [show a + (n - b) = a + n - b by omega, Nat.mod_eq_of_lt (by omega)]

theorem modSub_lt {a b n : Nat} (hn : 0 < n) : modSub a b n < n := Nat.mod_lt _ hn

/-- `occ` without the remainder. -/
theorem Ring.occ_eq {r : Ring} (h : r.InRange) :
    r.occ = if r.tail ≤ r.head then r.head - r.tail else r.head + r.cap - r.tail := modSub_eq h.head_lt h.tail_lt

theorem Ring.InRange.cap_pos {r : Ring} (h : r.InRange) : 0 < r.cap := by have := h.head_lt; omega

theorem Ring.occ_lt {r : Ring} (h : 0 < r.cap) : r.occ < r.cap := modSub_lt h

theorem Ring.space_add_occ {r : Ring} (h : 0 < r.cap) : r.space + r.occ = r.cap - 1 := by
  have := Ring.occ_lt h
  unfold Ring.space
  omega

@[simp] theorem Ring.put_cap (r : Ring) (d : List Byte) : (r.put d).1.cap = r.cap := rfl
@[simp] theorem Ring.put_tail (r : Ring) (d : List Byte) : (r.put d).1.tail = r.tail := rfl
@[simp] theorem Ring.put_head (r : Ring) (d : List Byte) :
    (r.put d).1.head = (r.head + min d.length r.space) % r.cap := rfl
@[simp] theorem Ring.put_count (r : Ring) (d : List Byte) : (r.put d).2 = min d.length r.space := rfl
@[simp] theorem Ring.take_fst (r : Ring) (n : Nat) :
    (r.take n).1 = { r with tail := (r.tail + min n r.occ) % r.cap } := rfl
@[simp] theorem Ring.clear_eq (r : Ring) : r.clear = { r with head := 0, tail := 0 } := rfl

/-- `put` keeps the canonical form of the storage. -/
theorem Ring.put_wf {r : Ring} (d : List Byte) (h : r.storage.wf = true) : (r.put d).1.storage.wf = true :=
  Memory.wf_writeBytes _ _ (Memory.wf_writeBytes _ _ h)

/-- `put` stays inside the storage. -/
theorem Ring.put_within {r : Ring} (d : List Byte) (hc : 0 < r.cap) (h : r.storage.within r.cap = true) :
    (r.put d).1.storage.within r.cap = true := by
  have hs := Ring.space_add_occ hc
  unfold Ring.put
  by_cases hh : r.cap ≤ r.head
  · rw [show r.cap - r.head = 0 by omega]
    simp only [Nat.min_zero, List.take_zero, List.drop_zero, Memory.writeBytes]
    apply Memory.within_writeBytes _ _ h
    simp
    omega
  · apply Memory.within_writeBytes
    · simp
      omega
    · apply Memory.within_writeBytes _ _ h
      simp
      omega

/-- The bytes of `put` lie at the head, modulo the capacity, and nothing else changes. -/
theorem Ring.put_appended {r : Ring} (h : r.InRange) (d : List Byte) :
    r.Appended (r.put d).1 d (min d.length r.space) := by
  have hs := Ring.space_add_occ h.cap_pos
  have hh := h.head_lt
  generalize hn : min d.length r.space = n at *
  have hnd : n ≤ d.length := by omega
  have hnc : n ≤ r.cap - 1 := by omega
  have hst : (r.put d).1.storage =
      (r.storage.writeBytes r.head (d.take (min n (r.cap - r.head)))).writeBytes 0
        ((d.take n).drop (min n (r.cap - r.head))) := by rw [← hn]; rfl
  have hl1 : (d.take (min n (r.cap - r.head))).length = min n (r.cap - r.head) := by simp; omega
  have hl2 : ((d.take n).drop (min n (r.cap - r.head))).length = n - min n (r.cap - r.head) := by simp; omega
  refine ⟨rfl, rfl, by rw [Ring.put_head, hn], ?_, ?_⟩
  · intro k hk
    rw [hst]
    by_cases hw : r.head + k < r.cap
    · rw [Nat.mod_eq_of_lt hw, Memory.read_writeBytes_other _ _ _ (by rw [hl2]; omega),
        Memory.read_writeBytes_at _ _ _ (by rw [hl1]; omega)]
      rw [List.getD_eq_getElem?_getD, List.getElem?_take, if_pos (by omega), ← List.getD_eq_getElem?_getD]
    · have hm : (r.head + k) % r.cap = r.head + k - r.cap := by
        rw [Nat.mod_eq_sub_mod (by omega), Nat.mod_eq_of_lt (by omega)]
      have := Memory.read_writeBytes_at (r.storage.writeBytes r.head (d.take (min n (r.cap - r.head)))) 0
        ((d.take n).drop (min n (r.cap - r.head))) (k := r.head + k - r.cap) (by rw [hl2]; omega)
      rw [Nat.zero_add] at this
      rw [hm, this, List.getD_eq_getElem?_getD, List.getElem?_drop, List.getElem?_take, if_pos (by omega),
        show min n (r.cap - r.head) + (r.head + k - r.cap) = k by omega, ← List.getD_eq_getElem?_getD]
  · intro a ha
    rw [hst]
    have h2 : n - min n (r.cap - r.head) ≤ a := by
      by_contra hc
      have := ha (r.cap - r.head + a) (by omega)
      rw [show r.head + (r.cap - r.head + a) = a + r.cap by omega, Nat.add_mod_right,
        Nat.mod_eq_of_lt (by omega)] at this
      exact this rfl
    have h1 : a < r.head ∨ r.head + min n (r.cap - r.head) ≤ a := by
      by_contra hc
      have := ha (a - r.head) (by omega)
      rw [show r.head + (a - r.head) = a by omega, Nat.mod_eq_of_lt (by omega)] at this
      exact this rfl
    rw [Memory.read_writeBytes_other _ _ _ (by rw [hl2]; omega),
      Memory.read_writeBytes_other _ _ _ (by rw [hl1]; omega)]

/-- A read of two spans is the read modulo the capacity. -/
theorem readSpans_eq (m : Memory) {t n cap : Nat} (ht : t < cap) (hn : n ≤ cap) :
    m.readBytes t (min n (cap - t)) ++ m.readBytes 0 (n - min n (cap - t)) =
      (List.range n).map fun k => m.read ((t + k) % cap) := by
  apply List.ext_getElem
  · simp
  · intro k h1 h2
    simp only [List.length_append, Memory.readBytes_length] at h1
    simp only [Memory.readBytes_eq_map, List.getElem_append, List.length_map, List.length_range, List.getElem_map,
      List.getElem_range]
    split
    · rw [Nat.mod_eq_of_lt (by omega)]
    · rw [Nat.mod_eq_sub_mod (by omega), Nat.mod_eq_of_lt (by omega)]
      congr 1
      omega

/-- `take` returns the oldest bytes. -/
theorem Ring.take_snd {r : Ring} (h : r.InRange) (n : Nat) : (r.take n).2 = r.contents.take n := by
  have ho := Ring.occ_lt h.cap_pos
  have : (r.take n).2 = (List.range (min n r.occ)).map fun k => r.storage.read ((r.tail + k) % r.cap) :=
    readSpans_eq r.storage h.tail_lt (by omega)
  rw [this]
  unfold Ring.contents
  rw [← List.map_take, List.take_range]

/-- `put` keeps the indices in range. -/
theorem Ring.put_inRange {r : Ring} (h : r.InRange) (d : List Byte) : (r.put d).1.InRange :=
  ⟨Nat.mod_lt _ h.cap_pos, h.tail_lt⟩

/-- `take` keeps the indices in range. -/
theorem Ring.take_inRange {r : Ring} (h : r.InRange) (n : Nat) : (r.take n).1.InRange :=
  ⟨h.head_lt, Nat.mod_lt _ h.cap_pos⟩

end Sys2Proof.Machine
end

