-- ==== Sys2Proof/Laws/Uart.lean ====
section
/-! SUPPORT. What each operation of the UART engine can do. -/

namespace Sys2Proof.Machine

/-- UART_CONFIGURE applies the decoded legal coding, or does nothing. -/
theorem State.uartConfigure_cases (s : State) (p : List Byte) :
    (∃ c, decodeCoding p = some c ∧ legalCoding c = true ∧
      s.uartConfigure p = ({ s with uart := { s.uart with
        coding := c, effBaud := Config.effectiveBaud c.baud, rxHwm := highWaterMark c.baud } }, .OK)) ∨
    ((∀ c, decodeCoding p = some c → legalCoding c = false) ∧ s.uartConfigure p = (s, .INVALID_CODING)) := by
  unfold State.uartConfigure
  split
  · rename_i c hc
    split
    · rename_i hl; exact .inl ⟨c, hc, hl, rfl⟩
    · rename_i hl
      refine .inr ⟨fun c' hc' => ?_, rfl⟩
      rw [hc] at hc'
      cases hc'
      simpa using hl
  · rename_i hc
    exact .inr ⟨fun c' hc' => by simp [hc] at hc', rfl⟩

/-- An abort puts a prefix of the chunk in progress on the wire, and draws once. -/
theorem State.abortChunk_eq_ok {s t : State} : s.abortChunk = .ok t ↔
    (s.uart.txBusy = false ∧ t = s) ∨
    (s.uart.txBusy = true ∧ s.txrb.tail + s.draw s.uart.txChunk ≤ Config.rbCapTx ∧
      t = { s with
        wireOut := s.wireOut ++ s.txrb.storage.readBytes s.txrb.tail (s.draw s.uart.txChunk)
        draws := s.draws + 1 }) := by
  unfold State.abortChunk
  split
  · rename_i hb
    simp only [hb, Bool.true_eq_false, false_and, true_and, false_or]
    split
    · rename_i hc
      rw [checkSpace_eq_ok] at hc
      exact ⟨fun h => ⟨hc, by cases h; rfl⟩, fun h => by rw [h.2]; rfl⟩
    · rename_i x hc
      rw [checkSpace_eq_error] at hc
      refine ⟨fun h => by simp at h, fun h => ?_⟩
      have := h.1
      have := hc.1
      simp only [Space.size] at this
      omega
  · rename_i hb
    simp [hb, eq_comm]

/-- A draw is at most what it is drawn below. -/
theorem State.draw_le (s : State) (n : Nat) : s.draw n ≤ n := by
  exact Nat.lt_succ_iff.mp (Nat.mod_lt _ (Nat.succ_pos n))

/-- An abort never leaves the space when the chunk lies inside it. -/
theorem State.abortChunk_ok (s : State) (h : s.uart.txBusy = true → s.txrb.tail + s.uart.txChunk ≤ Config.rbCapTx) :
    ∃ t, s.abortChunk = .ok t := by
  by_cases hb : s.uart.txBusy = true
  · have := s.draw_le s.uart.txChunk
    exact ⟨_, State.abortChunk_eq_ok.2 (.inr ⟨hb, by have := h hb; omega, rfl⟩)⟩
  · exact ⟨s, State.abortChunk_eq_ok.2 (.inl ⟨by simpa using hb, rfl⟩)⟩

/-- `tx_start` writes only the two chunk registers. -/
theorem State.txStart_eq (s : State) : s.txStart = { s with uart :=
    if s.uart.enabled = true ∧ s.uart.txBusy = false ∧ 0 < s.txrb.occ then
      { s.uart with txChunk := min s.txrb.contig (chunkCap s.uart.coding.baud), txBusy := true }
    else s.uart } := by
  unfold State.txStart
  by_cases h : s.uart.enabled = true ∧ s.uart.txBusy = false ∧ 0 < s.txrb.occ
  · simp [h.1, h.2.1, h.2.2]
  · rw [if_neg h, if_neg]
    simpa [and_assoc] using h

/-- UART_TRANSMIT writes the TX ring and the two chunk registers. -/
theorem State.uartTransmit_fst (s : State) (data : List Byte) :
    (s.uartTransmit data).1 = { s with
      txrb := (s.txrb.put (maskFor s.uart.coding data)).1
      uart :=
        if s.uart.enabled = true ∧ s.uart.txBusy = false ∧
            0 < (s.txrb.put (maskFor s.uart.coding data)).1.occ then
          { s.uart with
            txChunk := min (s.txrb.put (maskFor s.uart.coding data)).1.contig (chunkCap s.uart.coding.baud)
            txBusy := true }
        else s.uart } := by
  exact State.txStart_eq { s with txrb := (s.txrb.put (maskFor s.uart.coding data)).1 }

@[simp] theorem maskFor_length (c : LineCoding) (bs : List Byte) : (maskFor c bs).length = bs.length := by
  unfold maskFor; split <;> simp

@[simp] theorem State.uartTransmit_snd (s : State) (data : List Byte) :
    (s.uartTransmit data).2 = min data.length s.txrb.space := by
  unfold State.uartTransmit
  simp

/-- UART_COPY_RX writes only the read cursor and the last sample. -/
theorem State.uartCopyRx_fst (s : State) (limit : Nat) :
    (s.uartCopyRx limit).1 = { s with rx :=
      if s.rx.armed = true then
        { s.rx with
          tail := (s.rx.tail + min s.rx.len limit) % s.rx.cap, lastLen := s.rx.len - min s.rx.len limit }
      else s.rx } := by
  unfold State.uartCopyRx
  split <;> rename_i h <;> simp [h]

/-- UART_COPY_RX returns the oldest unread bytes, masked. -/
theorem State.uartCopyRx_snd (s : State) (limit : Nat) (h : s.rx.InRange) (ha : s.rx.armed = true) :
    (s.uartCopyRx limit).2 = maskFor s.uart.coding (s.rx.contents.take limit) := by
  have hl : s.rx.len < s.rx.cap := by
    have := h.cap_eq
    exact modSub_lt (by rw [this]; decide)
  have ht : s.rx.tail < s.rx.cap := by have := h.tail_lt; rw [h.cap_eq]; exact this
  unfold State.uartCopyRx
  rw [if_pos ha]
  simp only
  rw [readSpans_eq _ ht (by omega)]
  unfold RxWindow.contents
  rw [← List.map_take, List.take_range, Nat.min_comm]

/-- The poll's sampling writes only the read cursor, the last sample and the overrun flag. -/
theorem State.pollRx_eq (s : State) : s.pollRx = { s with
    uart := { s.uart with
      overrun := if s.rx.armed = true ∧ s.rx.len < s.rx.lastLen then true else s.uart.overrun }
    rx := { s.rx with
      tail := if s.rx.armed = true ∧ s.rx.len < s.rx.lastLen then s.rx.head else s.rx.tail
      lastLen := if s.rx.armed = false then s.rx.lastLen
        else if s.rx.armed = true ∧ s.rx.len < s.rx.lastLen then 0 else s.rx.len } } := by
  unfold State.pollRx
  by_cases ha : s.rx.armed = true
  · by_cases hl : s.rx.len < s.rx.lastLen <;> simp [ha, hl]
  · have h2 : ¬ (s.rx.armed = true ∧ s.rx.len < s.rx.lastLen) := fun h => ha h.1
    have h3 : s.rx.armed = false := by simpa using ha
    rw [if_neg ha]
    simp only [if_neg h2, if_pos h3]

/-- EV_UART_TX_DMA_DONE: the chunk goes on the wire, the tail passes it, `tx_start` runs. -/
theorem State.txDmaDone_eq_ok {s t : State} : s.txDmaDone = .ok t ↔
    s.txrb.tail + s.uart.txChunk ≤ Config.rbCapTx ∧
      t = ({ s with
        wireOut := s.wireOut ++ s.txrb.storage.readBytes s.txrb.tail s.uart.txChunk
        txrb := { s.txrb with tail := (s.txrb.tail + s.uart.txChunk) % s.txrb.cap }
        uart := { s.uart with txChunk := 0, txBusy := false } } : State).txStart := by
  unfold State.txDmaDone
  split
  · rename_i x hc
    rw [checkSpace_eq_error] at hc
    simp only [reduceCtorEq, false_iff, not_and]
    intro h
    have := hc.1
    simp only [Space.size] at this
    omega
  · rename_i hc
    rw [checkSpace_eq_ok] at hc
    exact ⟨fun h => ⟨hc, by cases h; rfl⟩, fun h => by rw [h.2]; rfl⟩

end Sys2Proof.Machine
end

