-- ==== Sys2Proof/Laws/Bridge.lean ====
section
/-! SUPPORT. What each operation of the bridge and of control dispatch can do. -/

namespace Sys2Proof.Machine

/-! ## Filters and CDC requests -/

theorem State.registerFilter_eq_ok {s t : State} {f : Filter} :
    s.registerFilter f = .ok t ↔ s.filters.length ≠ Config.filterCap ∧ t = { s with filters := s.filters ++ [f] } := by
  unfold State.registerFilter
  split <;> rename_i h <;> simp [h, eq_comm]

/-- The CDC handler changes the UART's coding registers, or DTR, or nothing. -/
theorem State.cdc_cases (s : State) (req : Request) (data : List Byte) :
    (s.cdc req data = (s, .pass)) ∨ (s.cdc req data = (s, .notSupported)) ∨
    (s.cdc req data = (s, .handled (encodeCoding s.uart.coding))) ∨
    (s.cdc req data = (s.uartSetDtr (req.wValue.getLsbD 0), .handled [])) ∨
    (∃ c, decodeCoding data = some c ∧ legalCoding c = true ∧ data.length = 7 ∧
      s.cdc req data = ({ s with uart := { s.uart with
        coding := c, effBaud := Config.effectiveBaud c.baud, rxHwm := highWaterMark c.baud } }, .handled [])) := by
  unfold State.cdc
  split
  · exact .inl rfl
  · split
    · unfold State.setLineCoding
      split
      · exact .inr (.inl rfl)
      · rename_i h
        simp only [not_or, ne_eq, not_not] at h
        rcases s.uartConfigure_cases data with ⟨c, h1, h2, h3⟩ | ⟨-, h3⟩
        · rw [h3]
          exact .inr (.inr (.inr (.inr ⟨c, h1, h2, h.2, rfl⟩)))
        · rw [h3]
          exact .inr (.inl rfl)
    · split
      · exact .inr (.inr (.inl rfl))
      · split
        · unfold State.setControlLineState
          split
          · exact .inr (.inl rfl)
          · exact .inr (.inr (.inr (.inl rfl)))
        · exact .inl rfl

/-- A request the CDC handler passes on has changed nothing. -/
theorem State.cdc_pass {s t : State} {req : Request} {data : List Byte} (h : s.cdc req data = (t, .pass)) : t = s := by
  rcases s.cdc_cases req data with h' | h' | h' | h' | ⟨c, -, -, -, h'⟩ <;> rw [h'] at h <;> cases h
  rfl

/-- The CDC handler passes on every request that is not of the class type. -/
theorem State.cdc_not_class (s : State) {req : Request} (data : List Byte) (h1 : req.bmRequestType ≠ 0x21)
    (h2 : req.bmRequestType ≠ 0xA1) : s.cdc req data = (s, .pass) := by
  unfold State.cdc
  split
  · rfl
  · rw [if_neg (fun h => h1 h.1), if_neg (fun h => h2 h.1), if_neg (fun h => h1 h.1)]

/-- The filter table offers a request to the CDC handler exactly when an entry matches its type. -/
theorem State.offerFilters_eq (s : State) (req : Request) (data : List Byte) (fs : List Filter) :
    s.offerFilters req data fs =
      if fs.any (fun f => f.matchesType req.bmRequestType) then s.cdc req data else (s, .pass) := by
  induction fs with
  | nil => rfl
  | cons f fs ih =>
    unfold State.offerFilters
    by_cases hm : f.matchesType req.bmRequestType = true
    · simp only [hm, if_true, List.any_cons, Bool.true_or]
      unfold State.runFilterHandler
      cases f.handler
      simp only
      split
      · rename_i t ht
        cases State.cdc_pass ht
        rw [ih, ht]
        split <;> rfl
      · rfl
    · simp only [hm, List.any_cons, Bool.false_or]
      exact ih

/-- Dispatch: the CDC handler's definitive answer when a filter matches, else standard handling. -/
theorem State.dispatchRequest_eq (s : State) (req : Request) (data : List Byte) :
    s.dispatchRequest req data =
      if s.filters.any (fun f => f.matchesType req.bmRequestType) ∧ (s.cdc req data).2 ≠ .pass then
        .ok (s.cdc req data)
      else s.standard req := by
  unfold State.dispatchRequest
  rw [State.offerFilters_eq]
  by_cases hm : s.filters.any (fun f => f.matchesType req.bmRequestType) = true
  · simp only [hm, if_true, true_and]
    generalize hc : s.cdc req data = r at *
    obtain ⟨t, r⟩ := r
    cases r with
    | pass => cases State.cdc_pass hc; simp
    | handled b => simp
    | notSupported => simp
  · simp [hm]

/-- Dispatch of a request that is not of the class type is standard handling, whatever is registered. -/
theorem State.dispatchRequest_standard (s : State) {req : Request} (data : List Byte) (h1 : req.bmRequestType ≠ 0x21)
    (h2 : req.bmRequestType ≠ 0xA1) : s.dispatchRequest req data = s.standard req := by
  rw [State.dispatchRequest_eq, State.cdc_not_class s data h1 h2]
  simp

/-! ## Flow coupling -/

/-- `update_pause` changes at most the bulk-OUT endpoint. -/
theorem State.updatePause_cases {s t : State} (h : s.updatePause = .ok t) :
    t = s ∨
    (s.txrb.space < 2 * (s.ep Config.epBulkOut).mps ∧ (s.ep Config.epBulkOut).paused = false ∧
      t = s.syncOrDefer Config.epBulkOut { s.ep Config.epBulkOut with paused := true }) ∨
    (2 * (s.ep Config.epBulkOut).mps ≤ s.txrb.space ∧ (s.ep Config.epBulkOut).paused = true ∧
      t = s.syncOrDefer Config.epBulkOut { s.ep Config.epBulkOut with paused := false }) := by
  unfold State.updatePause at h
  simp only at h
  split at h
  · cases h; exact .inl rfl
  · split at h
    · rename_i hp
      unfold State.epPause at h
      rw [except_map_eq_ok] at h
      obtain ⟨e, he, rfl⟩ := h
      obtain ⟨-, -, rfl⟩ := State.epFor_eq_ok.1 he
      exact .inr (.inl ⟨hp.1, hp.2, rfl⟩)
    · split at h
      · rename_i hp
        unfold State.epUnpause at h
        rw [except_map_eq_ok] at h
        obtain ⟨e, he, rfl⟩ := h
        obtain ⟨-, -, rfl⟩ := State.epFor_eq_ok.1 he
        exact .inr (.inr ⟨hp.1, hp.2, rfl⟩)
      · cases h; exact .inl rfl

/-! ## The bulk-OUT callback -/

/-- The callback that ends: no packet waits, or the packet goes to the TX ring and the pause is brought up to date. -/
theorem State.onUsbDataReceived_eq_ok {s t : State} (h : s.onUsbDataReceived = .ok t) :
    s.epReadPacket Config.epBulkOut Config.mpsBulk = .ok (t, none) ∨
    ∃ u b, s.epReadPacket Config.epBulkOut Config.mpsBulk = .ok (u, some b) ∧ (u.uartTransmit b).1.updatePause = .ok t := by
  unfold State.onUsbDataReceived at h
  split at h
  · cases h
  · rename_i u hu
    cases h
    exact .inl hu
  · rename_i u b hu
    exact .inr ⟨u, b, hu, h⟩

/-- Dispatch that ends: the handler ran inside the callback, then every deferred synchronisation. -/
theorem State.dispatchCompletion_eq_ok {s t : State} {a : EpAddr} : s.dispatchCompletion a = .ok t ↔
    ∃ u, (s.enterCallback a).runEpHandler (s.ep a).handler = .ok u ∧ t = u.leaveCallback.syncAllPending := by
  unfold State.dispatchCompletion
  rw [except_map_eq_ok]
  exact ⟨fun ⟨u, h, e⟩ => ⟨u, h, e.symm⟩, fun ⟨u, h, e⟩ => ⟨u, h, e.symm⟩⟩

/-! ## The poll -/

/-- A bridge poll that ends: the UART's poll and flags, and when configured the three parts in order. -/
theorem State.bridgePoll_eq_ok {s t : State} {now : Word} : s.bridgePoll now = .ok t ↔
    (s.uartPoll.gatherFlags.usb.config = 0 ∧ t = s.uartPoll.gatherFlags) ∨
    (s.uartPoll.gatherFlags.usb.config ≠ 0 ∧
      ∃ u v, s.uartPoll.gatherFlags.updatePause = .ok u ∧ u.notify = .ok v ∧ v.rxToUsb now = .ok t) := by
  unfold State.bridgePoll
  generalize s.uartPoll.gatherFlags = q
  simp only
  split
  · rename_i hc
    simp [hc, eq_comm]
  · rename_i hc
    replace hc : ¬ q.usb.config = 0#8 := hc
    rcases h1 : q.updatePause with x | u
    · simp [bind, Except.bind, hc]
    rcases h2 : u.notify with x | v
    · simp [bind, Except.bind, hc, h2]
    · simp [bind, Except.bind, hc, h2]

/-- A notification is not due, or the endpoint is busy, or the packet is submitted and the memory updated. -/
theorem State.notify_eq_ok {s t : State} (h : s.notify = .ok t) :
    t = s ∨
    ((s.serialState ≠ s.br.lastState ∨ s.br.pending ≠ 0) ∧
      ∃ u, s.epTransmit Config.epIntIn (serialStatePacket s.serialState) = .ok (u, .OK) ∧
        t = { u with br := { u.br with lastState := s.serialState, pending := 0 } }) := by
  unfold State.notify at h
  simp only at h
  split at h
  · rename_i hd
    split at h
    · cases h
    · rename_i u hu
      cases h
      exact .inr ⟨hd, u, hu, rfl⟩
    · rename_i u c hu hc
      cases h
      rw [State.epTransmit_eq_ok] at hc
      rcases hc.2.2.2 with ⟨-, rfl, -⟩ | ⟨-, -, -, rfl⟩
      · exact .inl rfl
      · exact absurd rfl hu
  · cases h
    exact .inl rfl

end Sys2Proof.Machine
end

