-- ==== Sys2Proof/Laws/Control.lean ====
section
/-! SUPPORT. What the stage operations of the control machine, the standard requests and the events of endpoint 0 can do
(43_control_transfer.md), and what configuration and a bus reset leave. -/

namespace Sys2Proof.Machine

/-! ## Stages -/

@[simp] theorem State.stall_eq (s : State) : s.stall = { s with
    ctrl := { s.ctrl with state := .STALLED, in0 := .EMPTY, onDone := none, zlp := false }, stalls := s.stalls + 1 } := rfl

@[simp] theorem Ctrl.loadIn0_eq (c : Ctrl) (b : List Byte) :
    c.loadIn0 b = { c with in0 := .LOADED, in0Len := b.length, in0Data := b } := rfl

@[simp] theorem Ctrl.statusIn_eq (c : Ctrl) :
    c.statusIn = { c with in0 := .LOADED, in0Len := 0, in0Data := [], state := .STATUS_IN } := rfl

/-- `send_next_in` loads the inserted zero-length packet, or the next chunk of the response. -/
theorem Ctrl.sendNextIn_cases (c : Ctrl) :
    (c.cursor = c.length ∧ c.zlp = true ∧ c.sendNextIn =
      { c with in0 := .LOADED, in0Len := 0, in0Data := [], zlp := false, state := .LAST_DATA_IN }) ∨
    (¬ (c.cursor = c.length ∧ c.zlp = true) ∧
      let k := min Config.mps0 (c.length - c.cursor)
      let b := (c.resp.drop c.cursor).take k
      c.sendNextIn = { c with
        in0 := .LOADED, in0Len := b.length, in0Data := b, cursor := c.cursor + k
        state := if c.cursor + k = c.length ∧ c.zlp = false then .LAST_DATA_IN else .DATA_IN }) := by
  unfold Ctrl.sendNextIn
  split
  · rename_i h
    exact .inl ⟨h.1, h.2, rfl⟩
  · rename_i h
    exact .inr ⟨h, rfl⟩

/-- The response of an IN data stage is cut to what the host asked. -/
theorem Ctrl.startIn_eq (c : Ctrl) (resp : List Byte) (w : Nat) : c.startIn resp w = { c with
    resp := resp.take w, length := (resp.take w).length, cursor := 0
    zlp := decide (0 < (resp.take w).length) && decide ((resp.take w).length < w)
      && decide ((resp.take w).length % Config.mps0 = 0) } := by
  have h : resp.take (min resp.length w) = resp.take w := by
    rcases Nat.le_total resp.length w with h | h
    · rw [Nat.min_eq_left h, List.take_length, List.take_of_length_le h]
    · rw [Nat.min_eq_right h]
  unfold Ctrl.startIn
  simp only [h]

/-- `complete_request` stalls, starts an IN data stage, or starts the IN status stage. -/
theorem State.completeRequest_cases (s : State) (r : HandlerResult) :
    (r = .notSupported ∨ r = .pass) ∧ s.completeRequest r = s.stall ∨
    ∃ resp, r = .handled resp ∧
      ((s.request.dirIn = true ∧ 0 < s.request.wLength.toNat ∧
        s.completeRequest r = { s with ctrl := (s.ctrl.startIn resp s.request.wLength.toNat).sendNextIn }) ∨
       (¬ (s.request.dirIn = true ∧ 0 < s.request.wLength.toNat) ∧
        s.completeRequest r = { s with ctrl := s.ctrl.statusIn })) := by
  cases r with
  | handled resp =>
    refine .inr ⟨resp, rfl, ?_⟩
    by_cases h : s.request.dirIn = true ∧ 0 < s.request.wLength.toNat
    · exact .inl ⟨h.1, h.2, by simp only [State.completeRequest, if_pos h]⟩
    · exact .inr ⟨h, by simp only [State.completeRequest, if_neg h]⟩
  | notSupported => exact .inl ⟨.inl rfl, rfl⟩
  | pass => exact .inl ⟨.inr rfl, rfl⟩

/-- Completing a request writes the control context and the stall count only. -/
theorem State.completeRequest_rest (s : State) (r : HandlerResult) :
    s.completeRequest r = { s with ctrl := (s.completeRequest r).ctrl, stalls := (s.completeRequest r).stalls } := by
  rcases s.completeRequest_cases r with ⟨-, h⟩ | ⟨resp, -, ⟨-, -, h⟩ | ⟨-, h⟩⟩ <;> rw [h] <;> rfl

/-! ## Standard requests -/

/-- An endpoint feature request that ends: no effect, or the halt of one configured endpoint written. -/
theorem State.epFeature_eq_ok {s t : State} {set : Bool} {req : Request} {r : HandlerResult}
    (h : s.epFeature set req = .ok (t, r)) :
    (t = s ∧ (r = .notSupported ∨ r = .handled [])) ∨
    (r = .handled [] ∧ ∃ a, (s.ep a).cfg = true ∧ epAddrOfByte req.indexByte = some a ∧
      t = s.syncOrDefer a { s.ep a with halt := set }) := by
  unfold State.epFeature at h
  split at h
  · cases h; exact .inl ⟨rfl, .inl rfl⟩
  · split at h
    · cases h; exact .inl ⟨rfl, .inr rfl⟩
    · rename_i a ha
      have hb : epAddrOfByte req.indexByte = some a := by
        unfold State.epTarget at ha
        split at ha
        · cases ha
        · split at ha
          · split at ha
            · rename_i hb _
              cases ha
              exact hb
            · cases ha
          · cases ha
      cases set
      · simp only [Bool.false_eq_true, if_false, State.epClearHalt] at h
        rw [except_map_eq_ok] at h
        obtain ⟨u, hu, he⟩ := h
        rw [except_map_eq_ok] at hu
        obtain ⟨e, hx, rfl⟩ := hu
        obtain ⟨hc, rfl⟩ := State.epAny_eq_ok.1 hx
        cases he
        exact .inr ⟨rfl, a, hc, hb, rfl⟩
      · simp only [if_true, State.epSetHalt] at h
        rw [except_map_eq_ok] at h
        obtain ⟨u, hu, he⟩ := h
        rw [except_map_eq_ok] at hu
        obtain ⟨e, hx, rfl⟩ := hu
        obtain ⟨hc, rfl⟩ := State.epAny_eq_ok.1 hx
        cases he
        exact .inr ⟨rfl, a, hc, hb, rfl⟩
    · cases h; exact .inl ⟨rfl, .inl rfl⟩

/-- SET_CONFIGURATION that ends: rejected, deconfigured, or configured. -/
theorem State.setConfiguration_eq_ok {s t : State} {req : Request} {r : HandlerResult}
    (h : s.setConfiguration req = .ok (t, r)) :
    (req.wValue ≠ 0 ∧ req.wValue ≠ 1 ∧ t = s ∧ r = .notSupported) ∨
    (req.wValue = 0 ∧ r = .handled [] ∧
      t = { s.deconfigureAll with usb := { s.deconfigureAll.usb with config := 0 } }) ∨
    (req.wValue = 1 ∧ r = .handled [] ∧
      State.setConfig { s.deconfigureAll with usb := { s.deconfigureAll.usb with config := 1 } } = .ok t) := by
  unfold State.setConfiguration at h
  simp only at h
  split at h
  · rename_i h0
    cases h
    exact .inr (.inl ⟨h0, rfl, rfl⟩)
  · rename_i h0
    split at h
    · rename_i h1
      obtain ⟨u, hu, he⟩ := except_map_eq_ok.1 h
      cases he
      exact .inr (.inr ⟨h1, rfl, hu⟩)
    · rename_i h1
      cases h
      exact .inl ⟨h0, h1, rfl, rfl⟩

/-- A standard request that ends: nothing changed, a halt written, an address latched, or the configuration set. -/
theorem State.standard_eq_ok {s t : State} {req : Request} {r : HandlerResult} (h : s.standard req = .ok (t, r)) :
    t = s ∨
    (req.bmRequestType = 0x02 ∧ ∃ set, s.epFeature set req = .ok (t, r)) ∨
    (req.bmRequestType = 0x00 ∧ req.bRequest = 5 ∧ req.wValue.toNat ≤ 127 ∧ req.wLength = 0 ∧ r = .handled [] ∧
      t = { s with ctrl := { s.ctrl with onDone := some (.setAddress (req.wValue.extractLsb' 0 7)) } }) ∨
    (req.bmRequestType = 0x00 ∧ req.bRequest = 9 ∧ s.setConfiguration req = .ok (t, r)) := by
  unfold State.standard at h
  split at h
  · cases h; exact .inl rfl
  · split at h
    · cases h; exact .inl rfl
    · cases h; exact .inl rfl
    · refine .inl ?_
      unfold State.getEpStatus at h
      split at h <;> (cases h; rfl)
    · rename_i hb _
      exact .inr (.inl ⟨hb, false, h⟩)
    · rename_i hb _
      exact .inr (.inl ⟨hb, true, h⟩)
    · rename_i hb hr
      unfold State.setAddressRequest at h
      split at h
      · rename_i hc
        cases h
        exact .inr (.inr (.inl ⟨hb, hr, hc.1, hc.2, rfl, rfl⟩))
      · cases h; exact .inl rfl
    · refine .inl ?_
      unfold State.getDescriptor at h
      split at h <;> (cases h; rfl)
    · cases h; exact .inl rfl
    · cases h; exact .inl rfl
    · rename_i hb hr
      exact .inr (.inr (.inr ⟨hb, hr, h⟩))
    · cases h; exact .inl rfl
    · cases h; exact .inl rfl
    · cases h; exact .inl rfl

/-! ## Configuration and bus reset -/

/-- `set_config` that ends: three endpoints set up in order, the UART enabled, the serial-state memory cleared. -/
theorem State.setConfig_eq_ok {s t : State} : s.setConfig = .ok t ↔
    ∃ s1 s2 s3 s4, s.epSetup Config.epBulkOut Config.bufBulkOut .BULK = .ok s1 ∧
      s1.epSetup Config.epBulkIn Config.bufBulkIn .BULK = .ok s2 ∧
      s2.epSetup Config.epIntIn Config.bufIntIn .INTERRUPT = .ok s3 ∧ s3.uartEnable = .ok s4 ∧
      t = { s4 with br := { s4.br with lastState := 0, pending := 0, zlpNeeded := false } } := by
  unfold State.setConfig
  rcases h1 : s.epSetup Config.epBulkOut Config.bufBulkOut .BULK with x | s1
  · simp [bind, Except.bind]
  rcases h2 : s1.epSetup Config.epBulkIn Config.bufBulkIn .BULK with x | s2
  · simp [bind, Except.bind, h2]
  rcases h3 : s2.epSetup Config.epIntIn Config.bufIntIn .INTERRUPT with x | s3
  · simp [bind, Except.bind, h2, h3]
  rcases h4 : s3.uartEnable with x | s4
  · simp [bind, Except.bind, h2, h3, h4]
  · simp [bind, Except.bind, pure, Except.pure, h2, h3, h4, eq_comm]

/-- A bus reset that ends: a chunk in progress aborted, then the registers restarted. -/
theorem State.busReset_eq_ok {s t : State} : s.busReset = .ok t ↔ ∃ u, s.abortChunk = .ok u ∧ t = u.busRestart := by
  unfold State.busReset
  rw [except_map_eq_ok]
  exact ⟨fun ⟨u, h, e⟩ => ⟨u, h, e.symm⟩, fun ⟨u, h, e⟩ => ⟨u, h, e.symm⟩⟩

/-! ## Events -/

/-- An OUT data packet that ends: too much data or a short packet stalls, the last packet serves the request, any other
leaves the data stage going on. -/
theorem State.ctrlOutData_eq_ok {s t : State} {d : List Byte} (h : s.ctrlOutData d = .ok t) :
    let c := { s.ctrl with buf := s.ctrl.buf.writeBytes s.ctrl.cursor d, cursor := s.ctrl.cursor + d.length }
    let u := { s with ctrl := c }
    (s.ctrl.length < s.ctrl.cursor + d.length ∧ t = s.stall) ∨
    (s.ctrl.cursor + d.length ≤ s.ctrl.length ∧ s.ctrl.cursor + d.length ≤ Config.ctrlBufCap ∧
      ((c.cursor = c.length ∧ u.serveRequest (c.buf.readBytes 0 c.length) = .ok t) ∨
       (c.cursor ≠ c.length ∧ d.length < Config.mps0 ∧ t = u.stall) ∨
       (c.cursor ≠ c.length ∧ Config.mps0 ≤ d.length ∧
        t = { u with ctrl := { c with state := dataOutState (c.length - c.cursor) } }))) := by
  intro c u
  unfold State.ctrlOutData at h
  split at h
  · rename_i hl
    cases h
    exact .inl ⟨hl, rfl⟩
  · rename_i hl
    split at h
    · cases h
    · rename_i hs
      rw [checkSpace_eq_ok] at hs
      refine .inr ⟨Nat.le_of_not_lt hl, hs, ?_⟩
      simp only at h
      split at h
      · rename_i hc
        exact .inl ⟨hc, h⟩
      · rename_i hc
        split at h
        · rename_i hd
          cases h
          exact .inr (.inl ⟨hc, hd, rfl⟩)
        · rename_i hd
          cases h
          exact .inr (.inr ⟨hc, Nat.le_of_not_lt hd, rfl⟩)

/-- A SETUP that ends: refused early, a data stage begun, or served at once. -/
theorem State.setupPacket_eq_ok {s t : State} {p : List Byte} (h : s.setupPacket p = .ok t) :
    let u := { s with ctrl := s.ctrl.beginSetup p }
    let w := u.request.wLength.toNat
    (u.request.dirIn = false ∧ Config.ctrlBufCap < w ∧ t = u.stall) ∨
    (u.request.dirIn = false ∧ 0 < w ∧ w ≤ Config.ctrlBufCap ∧
      t = { u with ctrl := { u.ctrl with length := w, state := dataOutState w } }) ∨
    (¬ (u.request.dirIn = false ∧ 0 < w) ∧ u.serveRequest [] = .ok t) := by
  intro u w
  unfold State.setupPacket at h
  simp only at h
  split at h
  · rename_i hd
    split at h
    · rename_i hc
      cases h
      exact .inl ⟨hd.1, hc, rfl⟩
    · rename_i hc
      cases h
      exact .inr (.inl ⟨hd.1, hd.2, Nat.le_of_not_lt hc, rfl⟩)
  · rename_i hd
    exact .inr (.inr ⟨hd, h⟩)

/-! ## The bulk-OUT callback and the poll -/

/-- The sending loop writes the RX window, packet memory and the IN endpoints only. -/
theorem State.sendPackets_rest (mps n : Nat) : ∀ {s t : State} {left lastk k : Nat},
    s.sendPackets mps n left lastk = .ok (t, k) → t = { s with rx := t.rx, pma := t.pma, epIn := t.epIn } := by
  induction n with
  | zero =>
    intro s t left lastk k h
    cases h
    rfl
  | succ n ih =>
    intro s t left lastk k h
    unfold State.sendPackets at h
    split at h
    · cases h; rfl
    · simp only at h
      split at h
      · cases h
      · rename_i u c hu
        have h1 := ih h
        have h2 : u = { s with rx := u.rx, pma := u.pma, epIn := u.epIn } := by
          rw [State.epTransmit_eq_ok] at hu
          obtain ⟨-, -, -, hu⟩ := hu
          have hr : (s.uartCopyRx (min mps left)).1 = { s with rx := (s.uartCopyRx (min mps left)).1.rx } := by
            rw [State.uartCopyRx_fst]
          rcases hu with ⟨-, rfl, -⟩ | ⟨-, -, rfl, -⟩
          · rw [hr]
          · rw [hr]
            unfold State.setEp
            rfl
        rw [h1, h2]

end Sys2Proof.Machine
end

