-- ==== Sys2Proof/Laws/PerInstr.lean ====
section
/-! SUPPORT. One lemma per operation about its encoding (30_encoding.md R80-R82): the family `Encoding` of LAWS.json. -/

namespace Sys2Proof.Laws.Encoding

open Sys2Proof Sys2Proof.Machine

/-- An operation's bytes are a command word with one of R82's opcodes and a payload; the fields and the payload say the
operation again, and for a well-formed operation the payload has the length that R81 reads off the command word. -/
def Statement (i : Instr) : Prop :=
  ∃ (op sel : Byte) (arg : Half) (payload : List Byte), op ∈ opcodes ∧ encode i = command op sel arg payload ∧
    decodeFields op sel arg payload = some i ∧ (i.wf = true → payload.length = payloadLen op arg.toNat)

/-- The four little-endian bytes of a word read back as the word. -/
theorem le32_bytes32 (w : Word) : le32 (bytes32 w) 0 = w := by
  simp only [le32, le16, bytes32, List.getD_cons_zero, List.getD_cons_succ]
  apply BitVec.eq_of_getLsbD_eq
  intro k hk
  simp only [BitVec.getLsbD_append, BitVec.getLsbD_extractLsb']
  rcases Nat.lt_or_ge k 8 with h | h
  · simp [h, show k < 16 by omega]
  · rcases Nat.lt_or_ge k 16 with h' | h'
    · simp [h', show ¬ k < 8 by omega, show k - 8 < 8 by omega, show 8 + (k - 8) = k by omega]
    · rcases Nat.lt_or_ge k 24 with h'' | h''
      · simp [show ¬ k < 16 by omega, show k - 16 < 8 by omega, show 16 + (k - 16) = k by omega]
      · simp [show ¬ k < 16 by omega, show ¬ k - 16 < 8 by omega, show k - 16 - 8 < 8 by omega,
          show 24 + (k - 16 - 8) = k by omega]

/-- The length field of a payload of fewer than 65536 bytes. -/
theorem length_field (data : List Byte) (h : data.length < 65536) : (BitVec.ofNat 16 data.length).toNat = data.length := by
  simp only [BitVec.toNat_ofNat]; omega

/-- The low part of an appended field. -/
theorem append_low {m n : Nat} (a : BitVec m) (b : BitVec n) : (a ++ b).extractLsb' 0 n = b := by
  apply BitVec.eq_of_getLsbD_eq
  intro k hk
  simp [BitVec.getLsbD_append, hk]

/-- The high part of an appended field. -/
theorem append_high {m n : Nat} (a : BitVec m) (b : BitVec n) : (a ++ b).extractLsb' n m = a := by
  apply BitVec.eq_of_getLsbD_eq
  intro k hk
  simp [BitVec.getLsbD_append, hk]

theorem rbClear (ring : Byte) : Statement (.rbClear ring) :=
  ⟨0x01, ring, 0, [], by decide, rfl, rfl,
    fun _ => rfl⟩

theorem rbEnqueue (ring : Byte) (data : List Byte) : Statement (.rbEnqueue ring data) :=
  ⟨0x02, ring, (BitVec.ofNat 16 data.length), data, by decide, rfl, rfl,
    fun h => (length_field data (by simpa [Instr.wf] using h)).symm⟩

theorem rbDequeue (ring : Byte) (limit : Half) : Statement (.rbDequeue ring limit) :=
  ⟨0x03, ring, limit, [], by decide, rfl, rfl,
    fun _ => rfl⟩

theorem rbAvailableSpace (ring : Byte) : Statement (.rbAvailableSpace ring) :=
  ⟨0x04, ring, 0, [], by decide, rfl, rfl,
    fun _ => rfl⟩

theorem rbOccupiedLen (ring : Byte) : Statement (.rbOccupiedLen ring) :=
  ⟨0x05, ring, 0, [], by decide, rfl, rfl,
    fun _ => rfl⟩

theorem rbContigLen (ring : Byte) : Statement (.rbContigLen ring) :=
  ⟨0x06, ring, 0, [], by decide, rfl, rfl,
    fun _ => rfl⟩

theorem uartConfigure (coding : List Byte) : Statement (.uartConfigure coding) :=
  ⟨0x10, 0, 0, coding, by decide, rfl, rfl,
    fun h => by simpa [Instr.wf, payloadLen] using h⟩

theorem uartEnable : Statement .uartEnable :=
  ⟨0x11, 0, 0, [], by decide, rfl, rfl,
    fun _ => rfl⟩

theorem uartTransmit (data : List Byte) : Statement (.uartTransmit data) :=
  ⟨0x12, 0, (BitVec.ofNat 16 data.length), data, by decide, rfl, rfl,
    fun h => (length_field data (by simpa [Instr.wf] using h)).symm⟩

theorem uartPoll : Statement .uartPoll :=
  ⟨0x13, 0, 0, [], by decide, rfl, rfl,
    fun _ => rfl⟩

theorem uartCopyRx (limit : Half) : Statement (.uartCopyRx limit) :=
  ⟨0x14, 0, limit, [], by decide, rfl, rfl,
    fun _ => rfl⟩

theorem uartHasOverrun : Statement .uartHasOverrun :=
  ⟨0x15, 0, 0, [], by decide, rfl, rfl,
    fun _ => rfl⟩

theorem uartGetDsr : Statement .uartGetDsr :=
  ⟨0x16, 0, 0, [], by decide, rfl, rfl,
    fun _ => rfl⟩

theorem uartGetDcd : Statement .uartGetDcd :=
  ⟨0x17, 0, 0, [], by decide, rfl, rfl,
    fun _ => rfl⟩

theorem uartSetDtr (arg : Half) : Statement (.uartSetDtr arg) :=
  ⟨0x18, 0, arg, [], by decide, rfl, rfl,
    fun _ => rfl⟩

theorem uartTxSpace : Statement .uartTxSpace :=
  ⟨0x19, 0, 0, [], by decide, rfl, rfl,
    fun _ => rfl⟩

theorem uartRxLen : Statement .uartRxLen :=
  ⟨0x1A, 0, 0, [], by decide, rfl, rfl,
    fun _ => rfl⟩

theorem uartGetCoding : Statement .uartGetCoding :=
  ⟨0x1B, 0, 0, [], by decide, rfl, rfl,
    fun _ => rfl⟩

theorem evUartTxDmaDone : Statement .evUartTxDmaDone :=
  ⟨0x20, 0, 0, [], by decide, rfl, rfl,
    fun _ => rfl⟩

theorem evUartRxByte (arg : Half) : Statement (.evUartRxByte arg) :=
  ⟨0x21, 0, arg, [], by decide, rfl, rfl,
    fun _ => rfl⟩

theorem evUartParityError : Statement .evUartParityError :=
  ⟨0x22, 0, 0, [], by decide, rfl, rfl,
    fun _ => rfl⟩

theorem evPinLevels (arg : Half) : Statement (.evPinLevels arg) :=
  ⟨0x23, 0, arg, [], by decide, rfl, rfl,
    fun _ => rfl⟩

theorem epSetup (addr : Byte) (size : BitVec 14) (type : BitVec 2) : Statement (.epSetup addr size type) :=
  ⟨0x30, addr, (type ++ size), [], by decide, rfl, by
    show some (Instr.epSetup _ ((type ++ size).extractLsb' 0 14) ((type ++ size).extractLsb' 14 2)) = _
    rw [append_low, append_high],
    fun _ => rfl⟩

theorem epTransmitPacket (addr : Byte) (data : List Byte) : Statement (.epTransmitPacket addr data) :=
  ⟨0x31, addr, (BitVec.ofNat 16 data.length), data, by decide, rfl, rfl,
    fun h => (length_field data (by simpa [Instr.wf] using h)).symm⟩

theorem epWriteAvail (addr : Byte) : Statement (.epWriteAvail addr) :=
  ⟨0x32, addr, 0, [], by decide, rfl, rfl,
    fun _ => rfl⟩

theorem epReadPacket (addr : Byte) (limit : Half) : Statement (.epReadPacket addr limit) :=
  ⟨0x33, addr, limit, [], by decide, rfl, rfl,
    fun _ => rfl⟩

theorem epPause (addr : Byte) : Statement (.epPause addr) :=
  ⟨0x34, addr, 0, [], by decide, rfl, rfl,
    fun _ => rfl⟩

theorem epUnpause (addr : Byte) : Statement (.epUnpause addr) :=
  ⟨0x35, addr, 0, [], by decide, rfl, rfl,
    fun _ => rfl⟩

theorem epSetHalt (addr : Byte) : Statement (.epSetHalt addr) :=
  ⟨0x36, addr, 0, [], by decide, rfl, rfl,
    fun _ => rfl⟩

theorem epClearHalt (addr : Byte) : Statement (.epClearHalt addr) :=
  ⟨0x37, addr, 0, [], by decide, rfl, rfl,
    fun _ => rfl⟩

theorem evBusReset : Statement .evBusReset :=
  ⟨0x38, 0, 0, [], by decide, rfl, rfl,
    fun _ => rfl⟩

theorem evEpInDone (addr : Byte) : Statement (.evEpInDone addr) :=
  ⟨0x39, addr, 0, [], by decide, rfl, rfl,
    fun _ => rfl⟩

theorem evEpOut (addr : Byte) (data : List Byte) : Statement (.evEpOut addr data) :=
  ⟨0x3A, addr, (BitVec.ofNat 16 data.length), data, by decide, rfl, rfl,
    fun h => (length_field data (by simpa [Instr.wf] using h)).symm⟩

theorem epDeconfigureAll : Statement .epDeconfigureAll :=
  ⟨0x3B, 0, 0, [], by decide, rfl, rfl,
    fun _ => rfl⟩

theorem epReadStatus (sel : Byte) : Statement (.epReadStatus sel) :=
  ⟨0x3C, sel, 0, [], by decide, rfl, rfl,
    fun _ => rfl⟩

theorem evUsbIrq (addr : Byte) : Statement (.evUsbIrq addr) :=
  ⟨0x3D, addr, 0, [], by decide, rfl, rfl,
    fun _ => rfl⟩

theorem evSetup (packet : List Byte) : Statement (.evSetup packet) :=
  ⟨0x40, 0, 0, packet, by decide, rfl, rfl,
    fun h => by simpa [Instr.wf, payloadLen] using h⟩

theorem evCtrlOut (data : List Byte) : Statement (.evCtrlOut data) :=
  ⟨0x41, 0, (BitVec.ofNat 16 data.length), data, by decide, rfl, rfl,
    fun h => (length_field data (by simpa [Instr.wf] using h)).symm⟩

theorem evCtrlInDone : Statement .evCtrlInDone :=
  ⟨0x42, 0, 0, [], by decide, rfl, rfl,
    fun _ => rfl⟩

theorem ctrlRegisterFilter (handler value mask : Byte) : Statement (.ctrlRegisterFilter handler value mask) :=
  ⟨0x43, handler, (mask ++ value), [], by decide, rfl, by
    show some (Instr.ctrlRegisterFilter _ ((mask ++ value).extractLsb' 0 8) ((mask ++ value).extractLsb' 8 8)) = _
    rw [append_low, append_high],
    fun _ => rfl⟩

theorem ctrlReadState : Statement .ctrlReadState :=
  ⟨0x44, 0, 0, [], by decide, rfl, rfl,
    fun _ => rfl⟩

theorem bridgePoll (now : Word) : Statement (.bridgePoll now) :=
  ⟨0x50, 0, 0, (bytes32 now), by decide, rfl, by
    show some (Instr.bridgePoll (le32 (bytes32 now) 0)) = _
    rw [le32_bytes32],
    fun _ => rfl⟩

theorem bridgeInit : Statement .bridgeInit :=
  ⟨0x51, 0, 0, [], by decide, rfl, rfl,
    fun _ => rfl⟩

end Sys2Proof.Laws.Encoding
end

