-- ==== Sys2Proof/Tests/Slice0.lean ====
section
/-! SUPPORT. Tests: words written out from 30_encoding.md R80-R82, ill-formed operations, one step of each operation with the
result that the spec's examples give, and a state that meets the hypotheses of each statement. -/

namespace Sys2Proof.Machine

/-! ## Decoding: `op`, `sel`, `arg` low byte, `arg` high byte, payload (R80), from the map of R82 -/

theorem test_decode_rbClear : decode [0x01, 0x00, 0x00, 0x00] = .instr (.rbClear 0) [] := by decide
theorem test_decode_rbEnqueue : decode [0x02, 0x00, 0x02, 0x00, 0x41, 0x42] = .instr (.rbEnqueue 0 [0x41, 0x42]) [] := by
  decide
theorem test_decode_rbDequeue : decode [0x03, 0x00, 0x34, 0x12] = .instr (.rbDequeue 0 0x1234) [] := by decide
theorem test_decode_rbAvailableSpace : decode [0x04, 0x01, 0x00, 0x00] = .instr (.rbAvailableSpace 1) [] := by decide
theorem test_decode_rbOccupiedLen : decode [0x05, 0x00, 0x00, 0x00] = .instr (.rbOccupiedLen 0) [] := by decide
theorem test_decode_rbContigLen : decode [0x06, 0x00, 0x00, 0x00] = .instr (.rbContigLen 0) [] := by decide
theorem test_decode_uartConfigure : decode [0x10, 0x00, 0x00, 0x00, 0x80, 0x25, 0x00, 0x00, 0x00, 0x00, 0x08]
    = .instr (.uartConfigure [0x80, 0x25, 0x00, 0x00, 0x00, 0x00, 0x08]) [] := by decide
theorem test_decode_uartEnable : decode [0x11, 0x00, 0x00, 0x00] = .instr .uartEnable [] := by decide
theorem test_decode_uartTransmit : decode [0x12, 0x00, 0x01, 0x00, 0x7E, 0x13]
    = .instr (.uartTransmit [0x7E]) [0x13] := by decide
theorem test_decode_uartPoll : decode [0x13, 0x00, 0x00, 0x00] = .instr .uartPoll [] := by decide
theorem test_decode_uartCopyRx : decode [0x14, 0x00, 0x40, 0x00] = .instr (.uartCopyRx 64) [] := by decide
theorem test_decode_uartHasOverrun : decode [0x15, 0x00, 0x00, 0x00] = .instr .uartHasOverrun [] := by decide
theorem test_decode_uartGetDsr : decode [0x16, 0x00, 0x00, 0x00] = .instr .uartGetDsr [] := by decide
theorem test_decode_uartGetDcd : decode [0x17, 0x00, 0x00, 0x00] = .instr .uartGetDcd [] := by decide
theorem test_decode_uartSetDtr : decode [0x18, 0x00, 0x01, 0x00] = .instr (.uartSetDtr 1) [] := by decide
theorem test_decode_uartTxSpace : decode [0x19, 0x00, 0x00, 0x00] = .instr .uartTxSpace [] := by decide
theorem test_decode_uartRxLen : decode [0x1A, 0x00, 0x00, 0x00] = .instr .uartRxLen [] := by decide
theorem test_decode_uartGetCoding : decode [0x1B, 0x00, 0x00, 0x00] = .instr .uartGetCoding [] := by decide
theorem test_decode_evUartTxDmaDone : decode [0x20, 0x00, 0x00, 0x00] = .instr .evUartTxDmaDone [] := by decide
theorem test_decode_evUartRxByte : decode [0x21, 0x00, 0xC1, 0x00] = .instr (.evUartRxByte 0x00C1) [] := by decide
theorem test_decode_evUartParityError : decode [0x22, 0x00, 0x00, 0x00] = .instr .evUartParityError [] := by decide
theorem test_decode_evPinLevels : decode [0x23, 0x00, 0x04, 0x00] = .instr (.evPinLevels 4) [] := by decide
theorem test_decode_epSetup : decode [0x30, 0x82, 0x80, 0x80] = .instr (.epSetup 0x82 128 2) [] := by decide
theorem test_decode_epTransmitPacket : decode [0x31, 0x82, 0x03, 0x00, 0x41, 0x42, 0x43]
    = .instr (.epTransmitPacket 0x82 [0x41, 0x42, 0x43]) [] := by decide
theorem test_decode_epWriteAvail : decode [0x32, 0x82, 0x00, 0x00] = .instr (.epWriteAvail 0x82) [] := by decide
theorem test_decode_epReadPacket : decode [0x33, 0x01, 0x40, 0x00] = .instr (.epReadPacket 0x01 64) [] := by decide
theorem test_decode_epPause : decode [0x34, 0x01, 0x00, 0x00] = .instr (.epPause 0x01) [] := by decide
theorem test_decode_epUnpause : decode [0x35, 0x01, 0x00, 0x00] = .instr (.epUnpause 0x01) [] := by decide
theorem test_decode_epSetHalt : decode [0x36, 0x82, 0x00, 0x00] = .instr (.epSetHalt 0x82) [] := by decide
theorem test_decode_epClearHalt : decode [0x37, 0x82, 0x00, 0x00] = .instr (.epClearHalt 0x82) [] := by decide
theorem test_decode_evBusReset : decode [0x38, 0x00, 0x00, 0x00] = .instr .evBusReset [] := by decide
theorem test_decode_evEpInDone : decode [0x39, 0x83, 0x00, 0x00] = .instr (.evEpInDone 0x83) [] := by decide
theorem test_decode_evEpOut : decode [0x3A, 0x01, 0x02, 0x00, 0x61, 0x62] = .instr (.evEpOut 0x01 [0x61, 0x62]) [] := by
  decide
theorem test_decode_epDeconfigureAll : decode [0x3B, 0x00, 0x00, 0x00] = .instr .epDeconfigureAll [] := by decide
theorem test_decode_epReadStatus : decode [0x3C, 0x03, 0x00, 0x00] = .instr (.epReadStatus 3) [] := by decide
theorem test_decode_evUsbIrq : decode [0x3D, 0x01, 0x00, 0x00] = .instr (.evUsbIrq 0x01) [] := by decide
theorem test_decode_evSetup : decode [0x40, 0x00, 0x00, 0x00, 0x80, 0x06, 0x00, 0x01, 0x00, 0x00, 0x12, 0x00]
    = .instr (.evSetup [0x80, 0x06, 0x00, 0x01, 0x00, 0x00, 0x12, 0x00]) [] := by decide
theorem test_decode_evCtrlOut : decode [0x41, 0x00, 0x00, 0x00] = .instr (.evCtrlOut []) [] := by decide
theorem test_decode_evCtrlInDone : decode [0x42, 0x00, 0x00, 0x00] = .instr .evCtrlInDone [] := by decide
theorem test_decode_ctrlRegisterFilter : decode [0x43, 0x01, 0x21, 0x7F]
    = .instr (.ctrlRegisterFilter 1 0x21 0x7F) [] := by decide
theorem test_decode_ctrlReadState : decode [0x44, 0x00, 0x00, 0x00] = .instr .ctrlReadState [] := by decide
theorem test_decode_bridgePoll : decode [0x50, 0x00, 0x00, 0x00, 0x0A, 0x01, 0x00, 0x02]
    = .instr (.bridgePoll 0x0200010A) [] := by decide
theorem test_decode_bridgeInit : decode [0x51, 0x00, 0x00, 0x00] = .instr .bridgeInit [] := by decide
/-- No opcode of R82. -/
theorem test_decode_unknown : decode [0x07, 0x00, 0x00, 0x00, 0x13] = .unknownOpcode 0x07 [0x13] := by decide
/-- Two bytes announced, one given. -/
theorem test_decode_incomplete : decode [0x02, 0x00, 0x02, 0x00, 0x41] = .incomplete := by decide
/-- The opcode table's bit numbering: `sel` is bits 15:8, `arg` bits 31:16. -/
theorem test_decodeTableWord : decodeTableWord 32 0x80808230 = some (.epSetup 0x82 128 2) := by decide

/-! ## Ill-formed operations: one term for each check of `Instr.wf` -/

theorem test_wf_rbEnqueue : (Instr.rbEnqueue 0 (List.replicate 65536 0)).wf = false := by
  simp only [Instr.wf, List.length_replicate, Nat.lt_irrefl, decide_false]
theorem test_wf_uartTransmit : (Instr.uartTransmit (List.replicate 65536 0)).wf = false := by
  simp only [Instr.wf, List.length_replicate, Nat.lt_irrefl, decide_false]
theorem test_wf_epTransmitPacket : (Instr.epTransmitPacket 0x82 (List.replicate 65536 0)).wf = false := by
  simp only [Instr.wf, List.length_replicate, Nat.lt_irrefl, decide_false]
theorem test_wf_evEpOut : (Instr.evEpOut 0x01 (List.replicate 65536 0)).wf = false := by
  simp only [Instr.wf, List.length_replicate, Nat.lt_irrefl, decide_false]
theorem test_wf_evCtrlOut : (Instr.evCtrlOut (List.replicate 65536 0)).wf = false := by
  simp only [Instr.wf, List.length_replicate, Nat.lt_irrefl, decide_false]
theorem test_wf_uartConfigure : (Instr.uartConfigure [0x80, 0x25, 0x00, 0x00, 0x00, 0x00]).wf = false := by decide
theorem test_wf_evSetup : (Instr.evSetup [0, 0, 0, 0, 0, 0, 0, 0, 0]).wf = false := by decide

/-! ## States to step from -/

/-- What `f` reads in the next state. -/
def after {α : Type} (o : Host.Outcome State Fault Refusal) (f : State → α) : Option α :=
  match o with
  | .next t => some (f t)
  | .fault _ => none
  | .refused _ => none

/-- The bulk OUT endpoint after SET_CONFIGURATION 1 (44_cdc_bridge.md R286). -/
def outIdle : Endpoint :=
  ⟨true, .BULK, 64, true, ⟨.FREE, 0, 128⟩, ⟨.FREE, 0, 192⟩, 0, 0, false, .VALID, false, false, some .onUsbDataReceived, 0⟩
/-- The same with the packet `61 62` in slot 0 and its completion interrupt pending. -/
def outFull : Endpoint := { outIdle with slot0 := ⟨.FULL, 2, 128⟩, hwNext := 1, irq := 1 }
/-- The bulk IN endpoint after SET_CONFIGURATION 1. -/
def inIdle : Endpoint :=
  ⟨true, .BULK, 64, true, ⟨.EMPTY, 0, 256⟩, ⟨.EMPTY, 0, 320⟩, 0, 0, false, .VALID, false, false, none, 0⟩
/-- The same with the packet `43` in slot 0. -/
def inLoaded : Endpoint := { inIdle with slot0 := ⟨.LOADED, 1, 256⟩, swNext := 1 }
/-- The interrupt IN endpoint after SET_CONFIGURATION 1. -/
def intIdle : Endpoint :=
  ⟨true, .INTERRUPT, 16, false, ⟨.EMPTY, 0, 384⟩, ⟨.EMPTY, 0, 0⟩, 0, 0, false, .VALID, false, false, none, 0⟩

/-- A configured block with these three endpoints: a chunk of 2 of 3 TX bytes in flight, 2 unread bytes in the RX window, CTS
asserted; a UART_RX_LEN is issued. -/
def live (o i n : Endpoint) : State :=
  { State.reset with
    epOut := #v[o, Endpoint.reset .OUT, Endpoint.reset .OUT, Endpoint.reset .OUT, Endpoint.reset .OUT,
      Endpoint.reset .OUT, Endpoint.reset .OUT]
    epIn := #v[Endpoint.reset .IN, i, n, Endpoint.reset .IN, Endpoint.reset .IN, Endpoint.reset .IN, Endpoint.reset .IN]
    usb := ⟨5, 1, none, 400⟩
    pma := [(128, 0x61), (129, 0x62), (256, 0x43)]
    txrb := ⟨1024, [(0, 0x41), (1, 0x42), (2, 0x43)], 3, 0⟩
    rx := ⟨1024, [(0, 0x31), (1, 0x32)], 1022, 0, 2, true⟩
    uart := { Uart.reset with txBusy := true, txChunk := 2, enabled := true }
    pin := ⟨true, true, true, true, false⟩
    filters := [cdcFilter]
    inbox := [0x1A, 0x00, 0x00, 0x00] }

/-- Everything idle. -/
def conf : State := live outIdle inIdle intIdle
/-- Packets waiting in both bulk endpoints. -/
def busy : State := live outFull inLoaded intIdle

/-! ## One step of each operation; the expected values are the examples of the cited rules -/

/-- R115: head 3, tail 1 becomes 0, 0. -/
theorem test_rbClear : after (exec (.rbClear 0) { State.reset with rb0 := ⟨8, [], 3, 1⟩ })
    (fun t => (t.rb0.head, t.rb0.tail)) = some (0, 0) := by decide
/-- R113: cap 8, head 6, tail 0, `A B C`: accepts 1, head 7. -/
theorem test_rbEnqueue : after (exec (.rbEnqueue 0 [0x41, 0x42, 0x43]) { State.reset with rb0 := ⟨8, [], 6, 0⟩ })
    (fun t => (t.rb0, t.reply)) = some (⟨8, [(6, 0x41)], 7, 0⟩, .result .OK (.len 1)) := by decide
/-- R114: the bytes `X Y Z` across the end of storage. -/
theorem test_rbDequeue : after (exec (.rbDequeue 0 5)
    { State.reset with rb0 := ⟨8, [(0, 0x5A), (6, 0x58), (7, 0x59)], 1, 6⟩ })
    (fun t => (t.rb0.tail, t.reply)) = some (1, .result .OK (.bytes [0x58, 0x59, 0x5A])) := by decide
/-- R112: cap 8, empty, gives 7. -/
theorem test_rbAvailableSpace : after (exec (.rbAvailableSpace 0) { State.reset with rb0 := ⟨8, [], 0, 0⟩ })
    State.reply = some (.result .OK (.len 7)) := by decide
/-- R111: cap 8, head 2, tail 6 gives 4. -/
theorem test_rbOccupiedLen : after (exec (.rbOccupiedLen 0) { State.reset with rb0 := ⟨8, [], 2, 6⟩ })
    State.reply = some (.result .OK (.u16 4)) := by decide
/-- R119: cap 8, tail 6, head 1 gives 2. -/
theorem test_rbContigLen : after (exec (.rbContigLen 0) { State.reset with rb0 := ⟨8, [], 1, 6⟩ })
    State.reply = some (.result .OK (.len 2)) := by decide
/-- R136: 9600 8N1 gives OK and `rx_hwm = 1020`. -/
theorem test_uartConfigure : after (exec (.uartConfigure [0x80, 0x25, 0, 0, 0, 0, 8]) State.reset)
    (fun t => (t.uart.rxHwm, t.reply)) = some (1020, .result .OK .unit) := by decide
/-- R136: 9600 7N1 gives INVALID_CODING, the coding stays. -/
theorem test_uartConfigure_invalid : after (exec (.uartConfigure [0x80, 0x25, 0, 0, 0, 0, 7]) State.reset)
    (fun t => (t.uart.coding, t.reply)) = some (LineCoding.default, .result .INVALID_CODING .unit) := by decide
/-- R137: both rings empty, the window armed, DTR inactive. -/
theorem test_uartEnable : after (exec .uartEnable { conf with uart := { conf.uart with txBusy := false, txChunk := 0 } })
    (fun t => (t.txrb.occ, t.rx.len, t.rx.armed, t.pin.dtr)) = some (0, 0, true, false) := by decide
/-- R138: 7E1 queues `C1 42` as `41 42`; not enabled, no chunk starts. -/
theorem test_uartTransmit : after (exec (.uartTransmit [0xC1, 0x42])
    { State.reset with uart := { Uart.reset with coding := ⟨9600, .seven, .one, .even⟩ } })
    (fun t => (t.txrb.contents, t.uart.txBusy, t.reply)) = some ([0x41, 0x42], false, .result .OK (.len 2)) := by decide
/-- R140: `last_len = 1000`, 100 bytes arrive: overrun, the cursor at the DMA position, `rts = true`. -/
theorem test_uartPoll : after (exec .uartPoll { State.reset with rx := ⟨1024, [], 948, 0, 1000, true⟩ })
    (fun t => (t.uart.overrun, t.rx.tail, t.rx.lastLen, t.pin.rts)) = some (true, 76, 0, true) := by decide
/-- R144: `31 32` at the tail, `max = 64`. -/
theorem test_uartCopyRx : after (exec (.uartCopyRx 64) conf) (fun t => (t.reply, t.rx.lastLen, t.rx.tail))
    = some (.result .OK (.bytes [0x31, 0x32]), 0, 2) := by decide
/-- R145: read once. -/
theorem test_uartHasOverrun : after (exec .uartHasOverrun { State.reset with uart := { Uart.reset with overrun := true } })
    (fun t => (t.reply, t.uart.overrun)) = some (.result .OK (.flag true), false) := by decide
/-- R146: a high wire is a false input. -/
theorem test_uartGetDsr : after (exec .uartGetDsr conf) State.reply = some (.result .OK (.flag false)) := by decide
/-- R146: a low wire is a true input. -/
theorem test_uartGetDcd : after (exec .uartGetDcd { conf with pin := { conf.pin with dcdW := false } }) State.reply
    = some (.result .OK (.flag true)) := by decide
/-- R148: level 1 drives the wire low. -/
theorem test_uartSetDtr : after (exec (.uartSetDtr 1) State.reset) (fun t => t.pin.dtrW) = some false := by decide
/-- R83: a reserved bit is refused. -/
theorem test_uartSetDtr_reserved : after (exec (.uartSetDtr 2) State.reset) (fun t => (t.pin.dtr, t.refused))
    = some (false, some 0x18) := by decide
/-- R149: an empty 1024 ring gives 1023. -/
theorem test_uartTxSpace : after (exec .uartTxSpace State.reset) State.reply = some (.result .OK (.len 1023)) := by decide
/-- R150: 2 bytes arrived and none copied. -/
theorem test_uartRxLen : after (exec .uartRxLen conf) State.reply = some (.result .OK (.len 2)) := by decide
/-- R151: the reset coding. -/
theorem test_uartGetCoding : after (exec .uartGetCoding State.reset) State.reply
    = some (.result .OK (.bytes [0x00, 0xC2, 0x01, 0x00, 0x00, 0x00, 0x08])) := by decide
/-- R141: the chunk goes out and the tail passes it. -/
theorem test_evUartTxDmaDone : after (exec .evUartTxDmaDone conf) (fun t => (t.wireOut, t.txrb.tail))
    = some ([0x41, 0x42], 2) := by decide
/-- R156: CTS deasserted. -/
theorem test_evUartTxDmaDone_cts : after (exec .evUartTxDmaDone { conf with pin := { conf.pin with ctsW := true } })
    (fun t => (t.wireOut, t.reply)) = some ([], .notEnabled) := by decide
/-- R143: `dma_rem = 1` writes position 1023, then `dma_rem = 1024` and `rx_head = 0`. -/
theorem test_evUartRxByte : after (exec (.evUartRxByte 0x55) { State.reset with rx := ⟨1024, [], 1, 0, 0, true⟩ })
    (fun t => (t.rx.storage, t.rx.dmaRem, t.rx.head)) = some ([(1023, 0x55)], 1024, 0) := by decide
/-- R155. -/
theorem test_evUartParityError : after (exec .evUartParityError State.reset) (fun t => t.uart.parityErr) = some true := by
  decide
/-- R147: `0b100` asserts DSR and DCD and deasserts CTS. -/
theorem test_evPinLevels : after (exec (.evPinLevels 4) State.reset) (fun t => (t.pin.dsr, t.pin.dcd, t.pin.cts))
    = some (true, true, false) := by decide
/-- R171: `EP_SETUP 0x82, (2<<14)|128` gives `mps = 64`, `K = 2`. -/
theorem test_epSetup : after (exec (.epSetup 0x82 128 2) State.reset)
    (fun t => ((t.ep ⟨.IN, 2⟩).mps, (t.ep ⟨.IN, 2⟩).K, (t.ep ⟨.IN, 2⟩).slot1.pma, t.usb.pmaNext))
    = some (64, 2, 192, 256) := by decide
/-- R171, R36 (log 16): the pending interrupts of the configuration it replaces are gone. -/
theorem test_epSetup_again : after (exec (.epSetup 0x01 64 2) busy) (fun t => ((t.ep ⟨.OUT, 1⟩).irq, (t.ep ⟨.OUT, 1⟩).slot0.state))
    = some (0, .FREE) := by decide
/-- R171: endpoint number 0. -/
theorem test_epSetup_ep0 : after (exec (.epSetup 0x80 64 2) State.reset) State.fault = some (some .EP0_RESERVED) := by decide
/-- R174: the second slot of a double-buffered endpoint. -/
theorem test_epTransmitPacket : after (exec (.epTransmitPacket 0x82 [0x41, 0x42]) busy)
    (fun t => ((t.ep ⟨.IN, 2⟩).slot1, t.pma, t.reply))
    = some (⟨.LOADED, 2, 320⟩, [(128, 0x61), (129, 0x62), (256, 0x43), (320, 0x41), (321, 0x42)], .result .OK .unit) := by
  decide
/-- R174: both slots in flight. -/
theorem test_epTransmitPacket_busy : after (exec (.epTransmitPacket 0x83 [])
    (live outIdle inIdle { intIdle with slot0 := ⟨.LOADED, 10, 384⟩ })) State.reply = some (.result .BUSY .unit) := by decide
/-- R175: single-buffered with 1 in flight gives 0. -/
theorem test_epWriteAvail : after (exec (.epWriteAvail 0x83)
    (live outIdle inIdle { intIdle with slot0 := ⟨.LOADED, 10, 384⟩ })) State.reply = some (.result .OK (.len 0)) := by decide
/-- R179: slot 0 FULL with `61 62`, not paused, in its own callback. -/
theorem test_epReadPacket : after (exec (.epReadPacket 0x01 64)
    { busy with usb := { busy.usb with inCallback := some ⟨.OUT, 1⟩ } })
    (fun t => (t.reply, (t.ep ⟨.OUT, 1⟩).slot0.state, (t.ep ⟨.OUT, 1⟩).swNext))
    = some (.result .OK (.bytes [0x61, 0x62]), .FREE, 1) := by decide
/-- R179: outside the callback. -/
theorem test_epReadPacket_outside : after (exec (.epReadPacket 0x01 64) busy) State.fault
    = some (some .OUTSIDE_CALLBACK) := by decide
/-- R182: outside any callback `hwstat` becomes NAK at once. -/
theorem test_epPause : after (exec (.epPause 0x01) conf) (fun t => (t.ep ⟨.OUT, 1⟩).hwstat) = some .NAK := by decide
/-- R183: paused, slot 0 HELD: slot 0 becomes FREE and VALID. -/
theorem test_epUnpause : after (exec (.epUnpause 0x01)
    (live { outIdle with paused := true, hwstat := .NAK, slot0 := ⟨.HELD, 2, 128⟩ } inIdle intIdle))
    (fun t => ((t.ep ⟨.OUT, 1⟩).slot0.state, (t.ep ⟨.OUT, 1⟩).hwstat)) = some (.FREE, .VALID) := by decide
/-- R188: STALL. -/
theorem test_epSetHalt : after (exec (.epSetHalt 0x82) conf) (fun t => (t.ep ⟨.IN, 2⟩).hwstat) = some .STALL := by decide
/-- R189: a halted endpoint returns to VALID. -/
theorem test_epClearHalt : after (exec (.epClearHalt 0x82) (live outIdle { inIdle with halt := true, hwstat := .STALL } intIdle))
    (fun t => (t.ep ⟨.IN, 2⟩).hwstat) = some .VALID := by decide
/-- R352: `occ = 0`, `config = 0`, `EPR[1] = 1`, IDLE, the filter kept. -/
theorem test_evBusReset : after (exec .evBusReset { conf with uart := { conf.uart with txBusy := false, txChunk := 0 } })
    (fun t => (t.txrb.occ, t.usb.config, t.epr 1, t.ctrl.state, t.filters.length)) = some (0, 0, 1, .IDLE, 1) := by decide
/-- R178: the oldest packet is emitted. -/
theorem test_evEpInDone : after (exec (.evEpInDone 0x82) busy)
    (fun t => (t.hostIn, (t.ep ⟨.IN, 2⟩).hwNext, (t.ep ⟨.IN, 2⟩).inFlight)) = some ([(⟨.IN, 2⟩, [0x43])], 1, 0) := by decide
/-- R181: a second packet fills slot 1 and `irq = 2`. -/
theorem test_evEpOut : after (exec (.evEpOut 0x01 [0x63]) busy)
    (fun t => ((t.ep ⟨.OUT, 1⟩).slot1, (t.ep ⟨.OUT, 1⟩).hwNext, (t.ep ⟨.OUT, 1⟩).irq)) = some (⟨.FULL, 1, 192⟩, 0, 2) := by
  decide
/-- R181: paused, so not enabled. -/
theorem test_evEpOut_paused : after (exec (.evEpOut 0x01 [0x63]) (live { outIdle with paused := true, hwstat := .NAK } inIdle intIdle))
    State.reply = some .notEnabled := by decide
/-- R194. -/
theorem test_epDeconfigureAll : after (exec .epDeconfigureAll conf) (fun t => (t.epr 1, t.usb.pmaNext)) = some (1, 128) := by
  decide
/-- R193: STAT_RX = 3, DBL_RX = 1, RX_CFG = 1, TYPE = 2, EA = 1. -/
theorem test_epReadStatus : after (exec (.epReadStatus 1) conf) State.reply
    = some (.result .OK (.u32 0x20033001)) := by decide
/-- R287: the packet goes to the TX ring; nothing is paused. -/
theorem test_evUsbIrq : after (exec (.evUsbIrq 0x01) busy)
    (fun t => (t.txrb.contents, (t.ep ⟨.OUT, 1⟩).paused, (t.ep ⟨.OUT, 1⟩).irq))
    = some ([0x41, 0x42, 0x43, 0x61, 0x62], false, 0) := by decide
/-- R284: SET_CONTROL_LINE_STATE 3 on a configured block sets DTR and leaves RTS. -/
theorem test_evSetup : after (exec (.evSetup [0x21, 0x22, 0x03, 0, 0, 0, 0, 0])
    { conf with pin := { conf.pin with dtr := false, rts := false } })
    (fun t => (t.pin.dtr, t.pin.rts, t.ctrl.state)) = some (true, false, .STATUS_IN) := by decide
/-- R241: GET_STATUS of an interface, unconfigured, stalls. -/
theorem test_evSetup_stall : after (exec (.evSetup [0x81, 0, 0, 0, 0, 0, 2, 0]) State.reset)
    (fun t => (t.ctrl.state, t.stalls)) = some (.STALLED, 1) := by decide
/-- R282: the 7 data bytes of SET_LINE_CODING apply 9600 8N1 before the status stage. -/
theorem test_evCtrlOut : after (exec (.evCtrlOut [0x80, 0x25, 0, 0, 0, 0, 8])
    { conf with ctrl := { Ctrl.reset with setup := [0x21, 0x20, 0, 0, 0, 0, 7, 0], length := 7, state := .LAST_DATA_OUT } })
    (fun t => (t.uart.coding.baud, t.ctrl.state)) = some (9600, .STATUS_IN) := by decide
/-- R229: STATUS_IN after SET_ADDRESS 5. -/
theorem test_evCtrlInDone : after (exec .evCtrlInDone
    { State.reset with ctrl := { Ctrl.reset with state := .STATUS_IN, in0 := .LOADED, onDone := some (.setAddress 5) } })
    (fun t => (t.ctrl.state, t.usb.address, t.hostIn)) = some (.IDLE, 5, [(⟨.IN, 0⟩, [])]) := by decide
/-- R238: `CTRL_REGISTER_FILTER 1, 0x7F21`. -/
theorem test_ctrlRegisterFilter : after (exec (.ctrlRegisterFilter 1 0x21 0x7F) State.reset) State.filters
    = some [⟨0x7F, 0x21, .cdcClass⟩] := by decide
/-- R239: IDLE, address 5, configured gives 0x00010500. -/
theorem test_ctrlReadState : after (exec .ctrlReadState conf) State.reply = some (.result .OK (.u32 0x00010500)) := by decide
/-- R295: a parity error moves into `pending`. -/
theorem test_bridgePoll : after (exec (.bridgePoll 0) { State.reset with uart := { Uart.reset with parityErr := true } })
    (fun t => (t.br.pending, t.uart.parityErr)) = some (0x0020, false) := by decide
/-- R280. -/
theorem test_bridgeInit : after (exec .bridgeInit State.reset) State.filters = some [⟨0x7F, 0x21, .cdcClass⟩] := by decide
/-- R26: the reset value of `rx_hwm` is what its formula gives at the reset coding. -/
theorem test_reset_rxHwm : State.reset.uart.rxHwm = highWaterMark State.reset.uart.coding.baud := by decide
/-- R291: DSR asserted, nothing pending: the packet of the example. -/
theorem test_serialStatePacket : serialStatePacket 2 = [0xA1, 0x20, 0, 0, 0, 0, 2, 0, 2, 0] := by decide


/-! ## States with every invariant -/

theorem live_ep (o i n : Endpoint) (a : EpAddr) : (a = ⟨.OUT, 1⟩ ∧ (live o i n).ep a = o) ∨
    (a = ⟨.IN, 2⟩ ∧ (live o i n).ep a = i) ∨ (a = ⟨.IN, 3⟩ ∧ (live o i n).ep a = n) ∨
    (a ≠ ⟨.OUT, 1⟩ ∧ a ≠ ⟨.IN, 2⟩ ∧ a ≠ ⟨.IN, 3⟩ ∧ (live o i n).ep a = Endpoint.reset a.dir) := by
  obtain ⟨d, k⟩ := a
  fin_cases k <;> cases d <;> first
    | exact .inl ⟨rfl, rfl⟩
    | exact .inr (.inl ⟨rfl, rfl⟩)
    | exact .inr (.inr (.inl ⟨rfl, rfl⟩))
    | exact .inr (.inr (.inr ⟨by decide, by decide, by decide, rfl⟩))

/-- An endpoint that may stand at an address of `live` with its slots at `p` and `p + 64`. -/
structure Fits (d : Dir) (h : Option EpHandler) (p : Nat) (e : Endpoint) : Prop where
  inv : e.Inv d
  handler : e.cfg = true → e.handler = h
  slot0 : e.cfg = true → e.slot0.pma = p
  slot1 : e.cfg = true → e.dbl = true → e.slot1.pma = p + 64

theorem reset_endpoint_inv (d : Dir) : (Endpoint.reset d).Inv d := by
  cases d <;> constructor <;> first | decide | (unfold SlotState.legalFor; decide)

theorem outIdle_fits : Fits .OUT (some .onUsbDataReceived) 128 outIdle :=
  ⟨by constructor <;> first | decide | (unfold SlotState.legalFor; decide), by decide, by decide, by decide⟩
theorem outIrq_fits : Fits .OUT (some .onUsbDataReceived) 128 { outIdle with irq := 1 } :=
  ⟨by constructor <;> first | decide | (unfold SlotState.legalFor; decide), by decide, by decide, by decide⟩
theorem outFull_fits : Fits .OUT (some .onUsbDataReceived) 128 outFull :=
  ⟨by constructor <;> first | decide | (unfold SlotState.legalFor; decide), by decide, by decide, by decide⟩
theorem inIdle_fits : Fits .IN none 256 inIdle :=
  ⟨by constructor <;> first | decide | (unfold SlotState.legalFor; decide), by decide, by decide, by decide⟩
theorem inLoaded_fits : Fits .IN none 256 inLoaded :=
  ⟨by constructor <;> first | decide | (unfold SlotState.legalFor; decide), by decide, by decide, by decide⟩
/-- Both slots of the bulk IN endpoint are in flight. -/
def inBoth : Endpoint := { inIdle with slot0 := ⟨.LOADED, 1, 256⟩, slot1 := ⟨.LOADED, 1, 320⟩ }
theorem inBoth_fits : Fits .IN none 256 inBoth :=
  ⟨by constructor <;> first | decide | (unfold SlotState.legalFor; decide), by decide, by decide, by decide⟩
theorem inReset_fits : Fits .IN none 256 (Endpoint.reset .IN) := ⟨reset_endpoint_inv .IN, by decide, by decide, by decide⟩
theorem intIdle_fits : Fits .IN none 384 intIdle :=
  ⟨by constructor <;> first | decide | (unfold SlotState.legalFor; decide), by decide, by decide, by decide⟩
/-- The interrupt endpoint's slot is in flight. -/
def intBusy : Endpoint := { intIdle with slot0 := ⟨.LOADED, 10, 384⟩ }
theorem intBusy_fits : Fits .IN none 384 intBusy :=
  ⟨by constructor <;> first | decide | (unfold SlotState.legalFor; decide), by decide, by decide, by decide⟩

theorem intReset_fits : Fits .IN none 384 (Endpoint.reset .IN) := ⟨reset_endpoint_inv .IN, by decide, by decide, by decide⟩
/-- An interrupt endpoint whose packets are too small for a notification. -/
theorem intSmall_fits : Fits .IN none 384 { intIdle with mps := 9 } :=
  ⟨by constructor <;> first | decide | (unfold SlotState.legalFor; decide), by decide, by decide, by decide⟩

theorem mpsOf_le (t : EpType) : mpsOf t ≤ 64 := by cases t <;> decide

theorem live_endpointInv {o i n : Endpoint} (ho : Fits .OUT (some .onUsbDataReceived) 128 o) (hi : Fits .IN none 256 i)
    (hn : Fits .IN none 384 n) (hm : n.mps ≤ 16) (hd : n.dbl = false) : (live o i n).EndpointInv := by
  have mo := Nat.le_trans ho.inv.mps_le (mpsOf_le _)
  have mi := Nat.le_trans hi.inv.mps_le (mpsOf_le _)
  refine ⟨?_, ?_, rfl, by show 128 ≤ 400; omega, by show 400 ≤ 512; omega, ?_, ?_⟩ <;> intro a <;>
    obtain ⟨h, e⟩ | ⟨h, e⟩ | ⟨h, e⟩ | ⟨-, -, -, e⟩ := live_ep o i n a
  · rw [e, h]; exact ho.inv
  · rw [e, h]; exact hi.inv
  · rw [e, h]; exact hn.inv
  · rw [e]; exact reset_endpoint_inv a.dir
  · rw [e, h]; exact ho.handler
  · rw [e, h]; exact hi.handler
  · rw [e, h]; exact hn.handler
  · rw [e]; intro hc; cases hc
  · rw [e]; intro hc; rw [ho.slot0 hc]; exact ⟨by decide, by show 128 + o.mps ≤ 400; omega⟩
  · rw [e]; intro hc; rw [hi.slot0 hc]; exact ⟨by decide, by show 256 + i.mps ≤ 400; omega⟩
  · rw [e]; intro hc; rw [hn.slot0 hc]; exact ⟨by decide, by show 384 + n.mps ≤ 400; omega⟩
  · rw [e]; intro hc; cases hc
  · rw [e]; intro hc h2; rw [ho.slot1 hc h2]; exact ⟨by decide, by show 192 + o.mps ≤ 400; omega⟩
  · rw [e]; intro hc h2; rw [hi.slot1 hc h2]; exact ⟨by decide, by show 320 + i.mps ≤ 400; omega⟩
  · rw [e]; intro hc h2; rw [hd] at h2; cases h2
  · rw [e]; intro hc; cases hc

theorem live_slotsDisjoint {o i n : Endpoint} (ho : Fits .OUT (some .onUsbDataReceived) 128 o) (hi : Fits .IN none 256 i)
    (hn : Fits .IN none 384 n) (hd : n.dbl = false) : (live o i n).SlotsDisjoint := by
  have mo := Nat.le_trans ho.inv.mps_le (mpsOf_le _)
  have mi := Nat.le_trans hi.inv.mps_le (mpsOf_le _)
  intro a b s t
  obtain ⟨h, e⟩ | ⟨h, e⟩ | ⟨h, e⟩ | ⟨-, -, -, e⟩ := live_ep o i n a <;>
    obtain ⟨h', e'⟩ | ⟨h', e'⟩ | ⟨h', e'⟩ | ⟨-, -, -, e'⟩ := live_ep o i n b <;> rw [e, e'] <;> intro ha hb hs ht hne
  all_goals first
    | cases ha
    | cases hb
    | skip
  all_goals
    subst h
    subst h'
    have o0 := ho.slot0
    have o1 := ho.slot1
    have i0 := hi.slot0
    have i1 := hi.slot1
    have n0 := hn.slot0
    fin_cases s <;> fin_cases t <;>
      simp_all [Endpoint.slot, Endpoint.hasSlot] <;> omega

theorem busy_storageInv : busy.StorageInv :=
  ⟨rfl, rfl, rfl, by intro sp; cases sp <;> decide, by intro sp; cases sp <;> decide⟩

theorem busy_serialInv : busy.SerialInv :=
  ⟨rfl, ⟨by decide, by decide⟩, rfl, ⟨by decide, by decide⟩, ⟨rfl, by decide, by decide, by decide, by decide⟩, by decide,
    by decide, by decide, by decide, rfl⟩

theorem live_serialInv (o i n : Endpoint) : (live o i n).SerialInv :=
  ⟨busy_serialInv.rb0_cap, busy_serialInv.rb0, busy_serialInv.txrb_cap, busy_serialInv.txrb, busy_serialInv.rx,
    busy_serialInv.busy, busy_serialInv.chunk, busy_serialInv.legal, busy_serialInv.hwm, busy_serialInv.effBaud⟩

theorem busy_controlInv : busy.ControlInv := by constructor <;> decide

theorem busy_bridgeInv : busy.BridgeInv := by constructor <;> decide

theorem busy_inv : busy.Inv := ⟨busy_storageInv, busy_serialInv,
  live_endpointInv outFull_fits inLoaded_fits intIdle_fits (by decide) rfl, busy_controlInv, busy_bridgeInv⟩

theorem busy_slotsDisjoint : busy.SlotsDisjoint := live_slotsDisjoint outFull_fits inLoaded_fits intIdle_fits rfl

theorem busy_irqBound : busy.IrqBound := by
  unfold State.IrqBound
  decide

theorem busy_flowRoom : busy.FlowRoom := by
  unfold State.FlowRoom
  decide

/-! ## A state and operands for the hypotheses of each statement, clause by clause, at boundary values where there are any -/

theorem test_witness_O1 : (Instr.evSetup [0, 0, 0, 0, 0, 0, 0, 0]).wf = true ∧
    (Instr.rbEnqueue 0 (List.replicate 65535 0)).wf = true := by
  refine ⟨by decide, ?_⟩
  simp only [Instr.wf, List.length_replicate]
  decide

theorem test_witness_O3 :
    (({ State.reset with inbox := [0x07, 0, 0, 0] } : State).fault = none ∧ (0x07 : Byte) ∉ opcodes) ∧
    (0xFF : Byte) ≠ 0 ∧ (0x11 : Byte).extractLsb' 4 3 ≠ 0#3 ∧ Config.numEp ≤ ((0x88 : Byte).extractLsb' 0 4).toNat ∧
    (2 : Byte) ≠ 1 ∧ Config.numEp ≤ ((0x08 : Byte).extractLsb' 0 4).toNat ∧
    (2 : Half).extractLsb' 1 15 ≠ 0#15 ∧ (8 : Half).extractLsb' 3 13 ≠ 0#13 ∧ (0x100 : Half).extractLsb' 8 8 ≠ 0#8 ∧
    (conf.ep ⟨.IN, 7⟩).cfg = false ∧ (⟨.OUT, 1⟩ : EpAddr).dir = .OUT := by decide

theorem test_witness_O4 : (conf.fault = none ∧ decode conf.inbox = .instr .uartRxLen []) ∧
    ({ conf with fault := some .BUFFER_TOO_SMALL } : State).fault = some .BUFFER_TOO_SMALL := by decide

theorem test_witness_O5 : ∃ t, exec (.epReadPacket 0x01 64) busy = .next t := ⟨_, rfl⟩
theorem test_witness_O6 : agentOf (.epReadPacket 0x01 64) = .SW ∧ ∃ t, exec (.epReadPacket 0x01 64) busy = .next t :=
  ⟨rfl, _, rfl⟩
theorem test_witness_O7 : busy.Inv := busy_inv
theorem test_witness_O8 : busy.Inv ∧ agentOf (.evUsbIrq 0x01) ≠ .SW := ⟨busy_inv, by decide⟩
theorem test_witness_O9 : busy.StorageInv ∧ ∃ t, step busy = .next t := ⟨busy_storageInv, _, rfl⟩
theorem test_witness_O10 : busy.SerialInv ∧ ∃ t, step busy = .next t := ⟨busy_serialInv, _, rfl⟩
theorem test_witness_O11 : busy.EndpointInv ∧ busy.IrqBound ∧ 0 < (busy.ep ⟨.OUT, 1⟩).irq ∧ ∃ t, step busy = .next t :=
  ⟨busy_inv.endpoints, busy_irqBound, by decide, _, rfl⟩
theorem test_witness_O12 : busy.ControlInv ∧ ∃ t, step busy = .next t := ⟨busy_controlInv, _, rfl⟩
theorem test_witness_O13 : busy.BridgeInv ∧ ∃ t, step busy = .next t := ⟨busy_bridgeInv, _, rfl⟩
theorem test_witness_O14 : busy.EndpointInv ∧ busy.SlotsDisjoint ∧ ∃ t, step busy = .next t :=
  ⟨busy_inv.endpoints, busy_slotsDisjoint, _, rfl⟩

theorem test_witness_O17 : (⟨8, [], 2, 6⟩ : Ring).InRange ∧ (⟨8, [], 5, 6⟩ : Ring).InRange ∧ (⟨8, [], 7, 7⟩ : Ring).InRange :=
  ⟨⟨by decide, by decide⟩, ⟨by decide, by decide⟩, ⟨by decide, by decide⟩⟩

theorem test_witness_O18 : busy.rb0.InRange ∧ (⟨8, [], 5, 6⟩ : Ring).InRange ∧ (⟨8, [], 5, 6⟩ : Ring).occ = 8 - 1 :=
  ⟨busy_serialInv.rb0, ⟨by decide, by decide⟩, by decide⟩

theorem test_witness_O19 : busy.rb0.InRange := busy_serialInv.rb0

theorem test_witness_O20 : (⟨8, [], 3, 3⟩ : Ring).InRange ∧ (⟨8, [], 3, 3⟩ : Ring).occ = 0 ∧
    ringFits ⟨8, [], 3, 3⟩ [.put [1, 2, 3, 4, 5, 6, 7], .take 3, .put [8, 9, 10], .take 9] :=
  ⟨⟨by decide, by decide⟩, by decide, by decide, by decide, trivial⟩

/-- Each index does change, by its writer. -/
theorem test_witness_O21 :
    after (exec .evUartTxDmaDone busy) (fun t => t.txrb.tail) = some 2 ∧
    after (exec (.uartTransmit [1]) busy) (fun t => t.txrb.head) = some 4 ∧
    after (exec (.evUartRxByte 1) busy) (fun t => t.rx.dmaRem) = some 1021 ∧
    after (exec (.uartCopyRx 1) busy) (fun t => t.rx.tail) = some 1 ∧
    after (exec (.rbEnqueue 0 [1]) busy) (fun t => t.rb0.head) = some 1 ∧
    after (exec (.rbDequeue 0 1) { busy with rb0 := ⟨1024, [], 2, 0⟩ }) (fun t => t.rb0.tail) = some 1 := by decide

theorem test_witness_O23 : decodeCoding [0x80, 0x25, 0, 0, 0, 0, 8] = some ⟨9600, .eight, .one, .none⟩ ∧
    legalCoding ⟨9600, .eight, .one, .none⟩ = true ∧ decodeCoding [0x80, 0x25, 0, 0, 0, 3, 8] = none ∧
    (∀ c, decodeCoding [0x80, 0x25, 0, 0, 0, 0, 7] = some c → legalCoding c = false) :=
  ⟨by decide, by decide, by decide, by intro c h; cases h; rfl⟩

/-- A ring in range; quotients below, at both ends of, and above the range. -/
theorem test_witness_O24 : busy.txrb.InRange ∧ ((0 : Nat) < 1000 ∧ (16 : Nat) ≤ 256 ∧ (15999 : Word).toNat / 1000 < 16 ∧
    16 ≤ (16000 : Word).toNat / 1000 ∧ (256999 : Word).toNat / 1000 ≤ 256 ∧ 256 < (257000 : Word).toNat / 1000) :=
  ⟨busy_serialInv.txrb, by decide⟩

theorem test_witness_O25 : State.reset.uart.txBusy = false ∧ busy.uart.txBusy = true ∧
    busy.txrb.tail + busy.uart.txChunk ≤ Config.rbCapTx := by decide

theorem test_witness_O27 : busy.rx.InRange ∧ busy.rx.armed = true ∧ busy.rx.lastLen = busy.rx.len ∧
    busy.uart.overrun = false ∧ busy.fault = none ∧ (∃ t, exec .uartPoll busy = .next t) ∧
    ∃ t, exec (.uartCopyRx 1) busy = .next t :=
  ⟨busy_serialInv.rx, rfl, by decide, rfl, rfl, ⟨_, rfl⟩, ⟨_, rfl⟩⟩

theorem test_witness_O28 : State.reset.rx.armed = false ∧ busy.rx.armed = true ∧ busy.rx.InRange :=
  ⟨rfl, rfl, busy_serialInv.rx⟩

theorem test_witness_O29 : State.reset.rx.armed = false ∧ busy.rx.armed = true ∧ busy.rx.InRange :=
  ⟨rfl, rfl, busy_serialInv.rx⟩

theorem test_witness_O31 : State.reset.uart.txBusy = false ∧ ({ busy with pin := { busy.pin with ctsW := true } } : State).pin.ctsW
    = true ∧ busy.uart.txBusy = true ∧ busy.pin.ctsW = false ∧ busy.txrb.tail + busy.uart.txChunk ≤ Config.rbCapTx := by decide

/-- An operation of the endpoints, a SETUP other than SET_CONFIGURATION 1, and the OUT data of another request. -/
theorem test_witness_O32 : busy.SerialInv ∧ (∃ t, exec (.evUsbIrq 0x01) busy = .next t) ∧ ¬ RestartsIn busy (.evUsbIrq 0x01) ∧
    ¬ RestartsIn busy (.evSetup [0, 9, 0, 0, 0, 0, 0, 0]) ∧ ¬ RestartsIn busy (.evCtrlOut [7]) :=
  ⟨busy_serialInv, ⟨_, rfl⟩, by simp [RestartsIn], by simp only [RestartsIn, Request.setsConfiguration1]; simp; decide,
    by simp only [RestartsIn, Request.setsConfiguration1]; simp; decide⟩

/-- The three faults, then an allocation that ends exactly at `PMA_BYTES` and one that would end 2 bytes past it. -/
theorem test_witness_O33 : (⟨.IN, 0⟩ : EpAddr).num.val = 0 ∧ (⟨.IN, 4⟩ : EpAddr).num.val ≠ 0 ∧ (64 : BitVec 14) ≠ 0 ∧
    ({ conf with usb := { conf.usb with pmaNext := 448 } } : State).usb.pmaNext + 1 * 64 ≤ Config.pmaBytes ∧
    Config.pmaBytes < ({ conf with usb := { conf.usb with pmaNext := 450 } } : State).usb.pmaNext + 1 * 64 := by decide

/-- Legal addresses and not; a packet of `mps` and of `mps + 1` bytes; both slots in flight, and one free. -/
theorem test_witness_O34 : ((⟨.IN, 2⟩ : EpAddr).dir = .IN ∧ (busy.ep ⟨.IN, 2⟩).cfg = true) ∧
    ¬ ((⟨.OUT, 1⟩ : EpAddr).dir = .IN ∧ (busy.ep ⟨.OUT, 1⟩).cfg = true) ∧
    (busy.ep ⟨.IN, 2⟩).mps < (List.replicate 65 (0 : Byte)).length ∧
    (List.replicate 64 (0 : Byte)).length ≤ (busy.ep ⟨.IN, 2⟩).mps ∧
    (busy.ep ⟨.IN, 2⟩).inFlight ≠ (busy.ep ⟨.IN, 2⟩).K ∧
    ((busy.ep ⟨.IN, 2⟩).slot (busy.ep ⟨.IN, 2⟩).swIdx).pma + 64 ≤ Config.pmaBytes ∧
    ((live outIdle inBoth intIdle).ep ⟨.IN, 2⟩).inFlight = ((live outIdle inBoth intIdle).ep ⟨.IN, 2⟩).K := by decide

theorem test_witness_O35 : ((⟨.IN, 2⟩ : EpAddr).dir = .IN ∧ (busy.ep ⟨.IN, 2⟩).cfg = true) ∧ (busy.ep ⟨.IN, 7⟩).cfg = false ∧
    ((0xF7 : Byte).extractLsb' 0 4).toNat = (7 : Fin Config.numEp).val ∧
    Config.numEp ≤ ((0x08 : Byte).extractLsb' 0 4).toNat := by decide

theorem test_witness_O36 : (7 : Fin Config.numEp).val ≠ 0 := by decide

theorem test_witness_O37 : ((busy.ep ⟨.IN, 2⟩).cfg = true ∧ (busy.ep ⟨.IN, 2⟩).hwstat = .VALID ∧
    ((busy.ep ⟨.IN, 2⟩).slot (busy.ep ⟨.IN, 2⟩).hwIdx).state = .LOADED) ∧
    ((busy.ep ⟨.IN, 2⟩).slot (busy.ep ⟨.IN, 2⟩).hwIdx).pma + ((busy.ep ⟨.IN, 2⟩).slot (busy.ep ⟨.IN, 2⟩).hwIdx).len
      ≤ Config.pmaBytes ∧
    ¬ ((conf.ep ⟨.IN, 2⟩).cfg = true ∧ (conf.ep ⟨.IN, 2⟩).hwstat = .VALID ∧
      ((conf.ep ⟨.IN, 2⟩).slot (conf.ep ⟨.IN, 2⟩).hwIdx).state = .LOADED) := by decide

/-- A packet of `mps` bytes lands, one of `mps + 1` does not. -/
theorem test_witness_O38 : ((busy.ep ⟨.OUT, 1⟩).cfg = true ∧ (busy.ep ⟨.OUT, 1⟩).hwstat = .VALID ∧
    ((busy.ep ⟨.OUT, 1⟩).slot (busy.ep ⟨.OUT, 1⟩).hwIdx).state = .FREE ∧
    (List.replicate 64 (0 : Byte)).length ≤ (busy.ep ⟨.OUT, 1⟩).mps) ∧
    ((busy.ep ⟨.OUT, 1⟩).slot (busy.ep ⟨.OUT, 1⟩).hwIdx).pma + 64 ≤ Config.pmaBytes ∧
    ¬ (List.replicate 65 (0 : Byte)).length ≤ (busy.ep ⟨.OUT, 1⟩).mps := by decide

/-- A buffer of exactly the packet's length, and one byte less. -/
theorem test_witness_O39 :
    let s := { busy with usb := { busy.usb with inCallback := some ⟨.OUT, 1⟩ } }
    let c := { conf with usb := { conf.usb with inCallback := some ⟨.OUT, 1⟩ } }
    let sl := (s.ep ⟨.OUT, 1⟩).slot (s.ep ⟨.OUT, 1⟩).swIdx
    (s.ep ⟨.OUT, 1⟩).cfg = true ∧ (s.ep ⟨.OUT, 2⟩).cfg = false ∧ busy.usb.inCallback ≠ some ⟨.OUT, 1⟩ ∧
    s.usb.inCallback = some ⟨.OUT, 1⟩ ∧ ((c.ep ⟨.OUT, 1⟩).slot (c.ep ⟨.OUT, 1⟩).swIdx).state ≠ .FULL ∧
    sl.state = .FULL ∧ (1 : Half).toNat < sl.len ∧ sl.len ≤ (2 : Half).toNat ∧ sl.pma + sl.len ≤ Config.pmaBytes := by decide

theorem test_witness_O40 : (conf.ep ⟨.OUT, 1⟩).cfg = true ∧ (conf.ep ⟨.OUT, 2⟩).cfg = false ∧
    conf.usb.inCallback ≠ some ⟨.OUT, 1⟩ ∧
    ({ conf with usb := { conf.usb with inCallback := some ⟨.OUT, 1⟩ } } : State).usb.inCallback = some ⟨.OUT, 1⟩ := by decide

theorem test_witness_O41 : (conf.ep ⟨.OUT, 1⟩).irq = 0 ∧ (conf.ep ⟨.OUT, 2⟩).cfg = false ∧
    (live { outIdle with irq := 1 } inIdle intIdle).EndpointInv ∧
    0 < ((live { outIdle with irq := 1 } inIdle intIdle).ep ⟨.OUT, 1⟩).irq ∧
    (((live { outIdle with irq := 1 } inIdle intIdle).ep ⟨.OUT, 1⟩).slot 0).state ≠ .FULL :=
  ⟨by decide, by decide, live_endpointInv outIrq_fits inIdle_fits intIdle_fits (by decide) rfl, by decide, by decide⟩

theorem test_witness_O42 : busy.Inv ∧ (busy.ep Config.epBulkOut).cfg = true ∧ 0 < (busy.ep Config.epBulkOut).irq ∧
    ((busy.ep Config.epBulkOut).slot (busy.ep Config.epBulkOut).swIdx).state = .FULL :=
  ⟨busy_inv, by decide, by decide, by decide⟩

theorem test_witness_O43 : busy.Inv ∧ busy.FlowRoom ∧ (busy.ep Config.epBulkOut).cfg = true ∧
    ((busy.ep Config.epBulkOut).slot (busy.ep Config.epBulkOut).swIdx).state = .FULL ∧
    (∃ t, exec (.evUsbIrq 0x01) busy = .next t) ∧ (∀ d, Instr.evUsbIrq 0x01 ≠ .uartTransmit d) ∧
    Instr.evUsbIrq 0x01 ≠ .epUnpause 0x01 ∧ (∀ n ty, Instr.evUsbIrq 0x01 ≠ .epSetup 0x01 n ty) :=
  ⟨busy_inv, busy_flowRoom, by decide, by decide, ⟨_, rfl⟩, by simp, by simp, by simp⟩

theorem test_witness_O44 : (busy.Inv ∧ busy.fault = none ∧ (busy.ep Config.epBulkOut).cfg = true ∧
      ∀ i ∈ [Instr.epPause 0x01, .evUsbIrq 0x01, .epUnpause 0x01],
        i = .evUsbIrq 0x01 ∨ i = .epPause 0x01 ∨ i = .epUnpause 0x01) ∧
    (epAddrToByte ⟨.OUT, 1⟩ = 0x01 ∧
      (∃ t, execTaken [.epPause 0x01, .evUsbIrq 0x01, .epUnpause 0x01, .evEpOut 0x01 [7], .epUnpause 0x01] busy = some t) ∧
      ∃ u, execTaken [.evUsbIrq 0x01, .evEpOut 0x01 [7], .epUnpause 0x01] busy = some u) :=
  ⟨⟨busy_inv, rfl, by decide, by decide⟩, by decide, ⟨_, rfl⟩, ⟨_, rfl⟩⟩

theorem test_witness_O45 : State.reset.uart.txBusy = false ∧ busy.txrb.tail + busy.uart.txChunk ≤ Config.rbCapTx := by decide

/-- A control context in a given state, 100 bytes of an OUT data stage announced and 64 received. -/
def ctrlIn (st : CtrlState) : State := { conf with ctrl := { Ctrl.reset with state := st, length := 100, cursor := 64 } }

/-- 256 bytes fit and 257 do not; a packet of 64 bytes is taken and one of 65 is not; the last packet of 36 bytes would complete
the data, 35 are short and 37 are too many. -/
theorem test_witness_O46 : ((0x21 : Byte).getLsbD 7 = false ∧ (0 : Byte).toNat + 256 * (1 : Byte).toNat ≤ Config.ctrlBufCap ∧
    Config.ctrlBufCap < (1 : Byte).toNat + 256 * (1 : Byte).toNat ∧
    (ctrlIn .STALLED).ctrl.state = .STALLED ∧ Config.mps0 < (List.replicate 65 (0 : Byte)).length ∧
    (List.replicate 64 (0 : Byte)).length ≤ Config.mps0 ∧ (ctrlIn .IDLE).ctrl.state = .IDLE ∧
    (ctrlIn .STATUS_OUT).ctrl.state = .STATUS_OUT ∧ (ctrlIn .DATA_IN).ctrl.state = .DATA_IN ∧
    (ctrlIn .STATUS_IN).ctrl.state = .STATUS_IN ∧ (ctrlIn .LAST_DATA_OUT).ctrl.state = .LAST_DATA_OUT ∧
    (ctrlIn .LAST_DATA_OUT).ctrl.length < (ctrlIn .LAST_DATA_OUT).ctrl.cursor + 37 ∧
    (ctrlIn .LAST_DATA_OUT).ctrl.cursor + 35 < (ctrlIn .LAST_DATA_OUT).ctrl.length ∧
    (ctrlIn .LAST_DATA_OUT).ctrl.length ≤ Config.ctrlBufCap ∧
    (ctrlIn .LAST_DATA_OUT).ctrl.cursor + 36 = (ctrlIn .LAST_DATA_OUT).ctrl.length ∧
    (requestOf (ctrlIn .LAST_DATA_OUT).ctrl.setup).dirIn = false) ∧
    (∃ t, (ctrlIn .LAST_DATA_OUT).dispatchRequest ⟨0x21, 0x20, 0, 0, 7⟩ [0x80, 0x25, 0, 0, 0, 0, 8] =
      .ok (t, .handled [])) ∧
    (ctrlIn .LAST_DATA_OUT).dispatchRequest ⟨0x21, 0x20, 0, 0, 100⟩ (List.replicate 100 0) =
      .ok (ctrlIn .LAST_DATA_OUT, .notSupported) :=
  ⟨by decide, ⟨_, rfl⟩, rfl⟩

theorem test_witness_O47 : (ctrlIn .IDLE).ctrl.in0 = .EMPTY ∧
    (let c := { (ctrlIn .DATA_IN).ctrl with in0 := .LOADED }
     c.in0 = .LOADED ∧ c.state = .DATA_IN ∧ c.cursor ≤ c.length ∧ ¬ (c.cursor = c.length ∧ c.zlp = true)) ∧
    (let c := { (ctrlIn .DATA_IN).ctrl with in0 := .LOADED, cursor := 100, zlp := true }
     c.cursor = c.length ∧ c.zlp = true) := by decide

/-- An interface number of the configuration and the first that is none; endpoint 0, a configured endpoint, an unconfigured one
and a byte that is no address. -/
theorem test_witness_O48 : (conf.usb.config ≠ 0 ∧ (1 : Half).toNat < Config.numIf) ∧
    ¬ (conf.usb.config ≠ 0 ∧ (2 : Half).toNat < Config.numIf) ∧ ((0x80 : Half).extractLsb' 0 4 = 0#4) ∧
    ((0x82 : Half).extractLsb' 0 8 = epAddrToByte ⟨.IN, 2⟩ ∧ (conf.ep ⟨.IN, 2⟩).cfg = true) ∧
    ((0x07 : Half).extractLsb' 0 8 = epAddrToByte ⟨.OUT, 7⟩ ∧ (conf.ep ⟨.OUT, 7⟩).cfg = false) ∧
    (∀ d n, (0x08 : Half).extractLsb' 0 8 ≠ epAddrToByte ⟨d, n⟩) ∧ (0x80 : Byte).extractLsb' 5 2 = 0#2 ∧
    ((0x83 : Byte), (0 : Byte)) ∉ [(0x80#8, 0#8), (0x81#8, 0#8), (0x82#8, 0#8), (0x02#8, 1#8), (0x02#8, 3#8),
      (0x00#8, 5#8), (0x80#8, 6#8), (0x00#8, 7#8), (0x80#8, 8#8), (0x00#8, 9#8), (0x81#8, 10#8), (0x01#8, 11#8)] := by
  refine ⟨by decide, by decide, by decide, by decide, by decide, ?_, by decide, by decide⟩
  intro d n
  cases d <;> revert n <;> decide

theorem test_witness_O49 : ((0x03 : Byte).extractLsb' 5 2 = 0#2 ∧ (0x03 : Byte) ≠ 0x02) ∧ (1 : Half) ≠ 0 ∧
    (0x82 : Half).extractLsb' 0 4 ≠ 0#4 ∧ (0x82 : Half).extractLsb' 0 8 = epAddrToByte ⟨.IN, 2⟩ ∧
    (conf.ep ⟨.IN, 2⟩).cfg = true ∧ conf.usb.inCallback ≠ some ⟨.IN, 2⟩ ∧ (⟨.IN, 2⟩ : EpAddr).num.val ≠ 0 ∧
    (∀ d n, (0x07 : Half).extractLsb' 0 8 = epAddrToByte ⟨d, n⟩ → (conf.ep ⟨d, n⟩).cfg = false) := by
  refine ⟨by decide, by decide, by decide, by decide, by decide, by decide, by decide, ?_⟩
  intro d n
  cases d <;> revert n <;> decide

/-- Addresses 127 and 128; a status OUT of 64 bytes; another SETUP. -/
theorem test_witness_O50 : (0x7F : Byte).toNat + 256 * (0 : Byte).toNat ≤ 127 ∧ 127 < (0x80 : Byte).toNat + 256 * (0 : Byte).toNat ∧
    (List.replicate 64 (0 : Byte)).length ≤ Config.mps0 ∧ ([0x80, 0x00, 0, 0, 0, 0, 2, 0] : List Byte).getD 1 0 ≠ 0x05 := by
  decide

theorem test_witness_O51 : 1 < (2 : Byte).toNat + 256 * (0 : Byte).toNat ∧ (0 : Byte).toNat + 256 * (0 : Byte).toNat = 0 ∧
    (1 : Byte).toNat + 256 * (0 : Byte).toNat = 1 ∧ State.reset.uart.txBusy = false ∧
    busy.txrb.tail + busy.uart.txChunk ≤ Config.rbCapTx ∧ 1 < (⟨0, 9, 2, 0, 7⟩ : Request).wValue.toNat ∧
    (⟨0, 9, 0, 0, 7⟩ : Request).bmRequestType = 0x00 ∧ (⟨0, 9, 1, 0, 7⟩ : Request).bRequest = 9 := by decide

/-- GET_STATUS with 2 bytes asked; a request without a data stage; a rejected one; then a 64-byte response to a request for 255
bytes, which takes a zero-length packet. -/
theorem test_witness_O52 :
    ((requestOf [0x80, 0, 0, 0, 0, 0, 2, 0]).dirIn = true ∧ (requestOf [0x80, 0, 0, 0, 0, 0, 2, 0]).wLength.toNat ≠ 0 ∧
      conf.dispatchRequest (requestOf [0x80, 0, 0, 0, 0, 0, 2, 0]) [] = .ok (conf, .handled [0, 0]) ∧ conf.fault = none) ∧
    ((requestOf [0x00, 5, 9, 0, 0, 0, 0, 0]).wLength.toNat = 0 ∧
      ∃ u, conf.dispatchRequest (requestOf [0x00, 5, 9, 0, 0, 0, 0, 0]) [] = .ok (u, .handled [])) ∧
    ((requestOf [0x81, 0, 0, 0, 2, 0, 2, 0]).dirIn = true ∧
      conf.dispatchRequest (requestOf [0x81, 0, 0, 0, 2, 0, 2, 0]) [] = .ok (conf, .notSupported)) ∧
    let c := (Ctrl.reset.startIn (List.replicate 64 0) 255).sendNextIn
    0 < 255 ∧ ({ conf with ctrl := c } : State).fault = none ∧
    ({ conf with ctrl := c } : State).ctrl = (Ctrl.reset.startIn (List.replicate 64 0) 255).sendNextIn :=
  ⟨⟨by decide, by decide, rfl, rfl⟩, ⟨by decide, _, rfl⟩, ⟨by decide, rfl⟩, by decide, rfl, rfl⟩

theorem test_witness_O53 : (∃ f ∈ conf.filters, f.matchesType 0xA1 = true) ∧ (∃ f ∈ conf.filters, f.matchesType 0x21 = true) ∧
    ¬ (∃ f ∈ State.reset.filters, f.matchesType 0x21 = true) ∧ (0 : Half) = Config.commIf ∧ (1 : Half) ≠ Config.commIf ∧
    (0xA1 : Byte).extractLsb' 5 2 ≠ 0#2 ∧ ((0x21 : Byte), (0x23 : Byte)) ∉ [(0x21#8, 0x20#8), (0xA1#8, 0x21#8), (0x21#8, 0x22#8)] ∧
    (decodeCoding [0x80, 0x25, 0, 0, 0, 0, 8] = some ⟨9600, .eight, .one, .none⟩ ∧
      legalCoding ⟨9600, .eight, .one, .none⟩ = true) ∧ decodeCoding [0x80, 0x25, 0, 0, 0, 3, 8] = none := by decide

/-- A legal coding; an illegal one; a short packet; declared lengths of 1 and of a whole packet, and a packet of that length. -/
theorem test_witness_O54 : conf.fault = none ∧ (∃ f ∈ conf.filters, f.matchesType 0x21 = true) ∧
    (decodeCoding [0x80, 0x25, 0, 0, 0, 0, 8] = some ⟨9600, .eight, .one, .none⟩ ∧
      legalCoding ⟨9600, .eight, .one, .none⟩ = true) ∧
    (∀ c, decodeCoding [0x80, 0x25, 0, 0, 0, 0, 7] = some c → legalCoding c = false) ∧
    ([0x80, 0x25, 0, 0, 0, 0] : List Byte).length ≠ 7 ∧ ([0x80, 0x25, 0, 0, 0, 0] : List Byte).length ≤ (7 : Byte).toNat ∧
    ((1 : Byte) ≠ 0 ∧ (1 : Byte) ≠ 7 ∧ (1 : Byte).toNat < ([0x80, 0x25] : List Byte).length) ∧ (64 : Byte) ≠ 7 ∧
    (64 : Byte).toNat ≤ Config.mps0 ∧ (List.replicate 64 (0 : Byte)).length ≤ Config.mps0 :=
  ⟨by decide, by decide, by decide, by intro c h; cases h; rfl, by decide, by decide, by decide, by decide, by decide,
    by decide⟩

theorem test_witness_O55 : (2 : Byte) ≠ 1 ∧ ({ conf with filters := List.replicate 4 cdcFilter } : State).filters.length
    = Config.filterCap ∧ ({ conf with filters := List.replicate 3 cdcFilter } : State).filters.length ≠ Config.filterCap := by
  decide

/-- Unconfigured; configured with nothing due; configured with a parity error to report, or with an endpoint that cannot take
the notification. -/
theorem test_witness_O56 : State.reset.usb.config = 0 ∧
    (busy.Inv ∧ busy.SlotsDisjoint ∧ busy.usb.config ≠ 0 ∧ ¬ busy.NotifyDue) ∧
    ((busy.ep Config.epBulkOut).cfg = true ∧ (busy.ep Config.epBulkIn).cfg = true ∧
      (busy.ep Config.epIntIn).cfg = true ∧ 10 ≤ (busy.ep Config.epIntIn).mps) ∧
    (∃ s2 s3 t, ({ busy with br := { busy.br with zlpNeeded := true } } : State).updatePause = .ok s2 ∧ s2.notify = .ok s3 ∧ s3.rxToUsb 0 = .ok t) ∧
    (∃ s2, (live outFull inLoaded (Endpoint.reset .IN)).updatePause = .ok s2 ∧
      ({ s2 with br := { s2.br with pending := 0x20 } } : State).notify = .error (.misuse .EP_NOT_CONFIGURED)) :=
  ⟨by decide, ⟨busy_inv, busy_slotsDisjoint, by decide, by unfold State.NotifyDue; decide⟩, by decide,
    ⟨_, _, _, rfl, rfl, rfl⟩, ⟨_, rfl, rfl⟩⟩

/-- Nothing due; an overrun pending with the endpoint free, busy, unconfigured, and too small. -/
theorem test_witness_O57 : (busy.EndpointInv ∧ busy.SlotsDisjoint ∧ ¬ busy.NotifyDue) ∧
    (let due := fun s : State => { s with br := { s.br with pending := 0x40 } }
     let fits := fun n : Endpoint => (due (live outFull inLoaded n)).EndpointInv ∧
       (due (live outFull inLoaded n)).SlotsDisjoint ∧ (due (live outFull inLoaded n)).NotifyDue
     (fits intIdle ∧ intIdle.cfg = true ∧ 10 ≤ intIdle.mps ∧ intIdle.inFlight ≠ intIdle.K) ∧
     (fits intBusy ∧ intBusy.cfg = true ∧ 10 ≤ intBusy.mps ∧ intBusy.inFlight = intBusy.K) ∧
     (fits (Endpoint.reset .IN) ∧ (Endpoint.reset .IN).cfg = false) ∧
     (fits { intIdle with mps := 9 } ∧ ({ intIdle with mps := 9 } : Endpoint).mps < 10)) := by
  have fits : ∀ {n : Endpoint}, Fits .IN none 384 n → n.mps ≤ 16 → n.dbl = false →
      ({ live outFull inLoaded n with br := { (live outFull inLoaded n).br with pending := 0x40 } } : State).EndpointInv ∧
      ({ live outFull inLoaded n with br := { (live outFull inLoaded n).br with pending := 0x40 } } : State).SlotsDisjoint ∧
      ({ live outFull inLoaded n with br := { (live outFull inLoaded n).br with pending := 0x40 } } : State).NotifyDue := by
    intro n hn hm hd
    have h := live_endpointInv outFull_fits inLoaded_fits hn hm hd
    exact ⟨⟨h.eps, h.handler, rfl, h.pma_lo, h.pma_hi, h.slot0, h.slot1⟩,
      live_slotsDisjoint outFull_fits inLoaded_fits hn hd, .inr (by show (0x40 : Half) ≠ 0; decide)⟩
  exact ⟨⟨busy_inv.endpoints, busy_slotsDisjoint, by unfold State.NotifyDue; decide⟩,
    ⟨fits intIdle_fits (by decide) rfl, by decide⟩, ⟨fits intBusy_fits (by decide) rfl, by decide⟩,
    ⟨fits intReset_fits (by decide) rfl, by decide⟩, ⟨fits intSmall_fits (by decide) rfl, by decide⟩⟩

/-- The bulk IN endpoint unconfigured, with both slots in flight, with one free; a zero-length packet due. -/
theorem test_witness_O58 : ((live outFull (Endpoint.reset .IN) intIdle).EndpointInv ∧
      (live outFull (Endpoint.reset .IN) intIdle).SlotsDisjoint ∧ (live outFull (Endpoint.reset .IN) intIdle).SerialInv ∧
      ((live outFull (Endpoint.reset .IN) intIdle).ep Config.epBulkIn).cfg = false) ∧
    ((live outFull inBoth intIdle).EndpointInv ∧ (live outFull inBoth intIdle).SlotsDisjoint ∧
      (live outFull inBoth intIdle).SerialInv ∧
      ((live outFull inBoth intIdle).ep Config.epBulkIn).inFlight = ((live outFull inBoth intIdle).ep Config.epBulkIn).K) ∧
    (busy.EndpointInv ∧ busy.SlotsDisjoint ∧ busy.SerialInv ∧ (busy.ep Config.epBulkIn).cfg = true ∧
      (busy.ep Config.epBulkIn).inFlight ≠ (busy.ep Config.epBulkIn).K ∧ busy.br.zlpNeeded = false) ∧
    ({ busy with br := { busy.br with zlpNeeded := true } } : State).br.zlpNeeded = true ∧
    ({ busy with br := { busy.br with zlpNeeded := true } } : State).EndpointInv :=
  ⟨⟨live_endpointInv outFull_fits inReset_fits intIdle_fits (by decide) rfl,
      live_slotsDisjoint outFull_fits inReset_fits intIdle_fits rfl, live_serialInv _ _ _, by decide⟩,
    ⟨live_endpointInv outFull_fits inBoth_fits intIdle_fits (by decide) rfl,
      live_slotsDisjoint outFull_fits inBoth_fits intIdle_fits rfl, live_serialInv _ _ _, by decide⟩,
    ⟨busy_inv.endpoints, busy_slotsDisjoint, busy_serialInv, by decide, by decide, by decide⟩, by decide,
    ⟨busy_inv.endpoints.eps, busy_inv.endpoints.handler, rfl, busy_inv.endpoints.pma_lo, busy_inv.endpoints.pma_hi,
      busy_inv.endpoints.slot0, busy_inv.endpoints.slot1⟩⟩

/-- Each of the four does change, by an operation named. -/
theorem test_witness_O59 :
    after (exec (.uartConfigure [0x80, 0x25, 0, 0, 0, 0, 8]) busy) (fun t => t.uart.coding.baud) = some 9600 ∧
    after (exec .evCtrlInDone { busy with ctrl := { Ctrl.reset with
      state := .STATUS_IN, in0 := .LOADED, onDone := some (.setAddress 9) } }) (fun t => t.usb.address) = some 9 ∧
    after (exec (.evSetup [0x80, 0, 0, 0, 0, 0, 2, 0]) (ctrlIn .STALLED)) (fun t => t.ctrl.state) = some .LAST_DATA_IN ∧
    after (exec .bridgeInit busy) (fun t => t.filters.length) = some 2 := by decide

/-- Endpoint 0 idle and STALLED; a configured endpoint, an unconfigured one, a paused and a halted one. -/
theorem test_witness_O60 : busy.ControlInv ∧ busy.EndpointInv ∧ (⟨.OUT, 1⟩ : EpAddr).num.val ≠ 0 ∧
    (busy.ep ⟨.OUT, 2⟩).cfg = false ∧ (busy.ep ⟨.OUT, 1⟩).cfg = true ∧
    (busy.handshake ⟨.OUT, 1⟩, busy.handshake ⟨.IN, 2⟩, busy.handshake ⟨.IN, 3⟩) = (.ack, .ack, .nak) ∧
    ((ctrlIn .STALLED).handshake ⟨.OUT, 0⟩, (ctrlIn .STALLED).handshake ⟨.IN, 0⟩) = (.stall, .stall) ∧
    (live { outIdle with paused := true, hwstat := .NAK } inIdle intIdle).handshake ⟨.OUT, 1⟩ = .nak ∧
    (live outIdle { inIdle with halt := true, hwstat := .STALL } intIdle).handshake ⟨.IN, 2⟩ = .stall :=
  ⟨busy_controlInv, busy_inv.endpoints, by decide, by decide, by decide, by decide, by decide, by decide, by decide⟩

end Sys2Proof.Machine
end

section
/-! SUPPORT. What one operation can do, said once: every `exec` that ends is a sequence of elementary changes, each confined
to one part of the state. An invariant that each elementary change keeps is kept by every step. -/

namespace Sys2Proof.Machine

/-! ## Which operations may change what -/

/-- The operations that can apply a line coding (41_uart_engine.md R136; 44_cdc_bridge.md R282). -/
def SetsCoding (i : Instr) : Prop := (∃ p, i = .uartConfigure p) ∨ ∃ d, i = .evCtrlOut d

/-- The operations that act on the control context (43_control_transfer.md R221, R229, R230; 70_reset_and_hazards.md R352). -/
def ServesEp0 (i : Instr) : Prop :=
  (∃ p, i = .evSetup p) ∨ (∃ d, i = .evCtrlOut d) ∨ i = .evCtrlInDone ∨ i = .evBusReset

/-- The operations that register a filter (43_control_transfer.md R238; 44_cdc_bridge.md R280). -/
def SetsFilters (i : Instr) : Prop := i = .bridgeInit ∨ ∃ h v m, i = .ctrlRegisterFilter h v m

/-! ## Elementary changes -/

/-- A change of the rings, the RX window, the UART, the pins, or the wire log. -/
inductive SerialChange (i : Instr) (s : State) : State → Prop where
  | rb0Put (d : List Byte) : SerialChange i s { s with rb0 := (s.rb0.put d).1 }
  | rb0Take (n : Nat) : SerialChange i s { s with rb0 := (s.rb0.take n).1 }
  | rb0Clear : SerialChange i s { s with rb0 := s.rb0.clear }
  | configure (hi : SetsCoding i) (c : LineCoding) (hc : legalCoding c = true) :
      SerialChange i s { s with uart := { s.uart with
        coding := c, effBaud := Config.effectiveBaud c.baud, rxHwm := highWaterMark c.baud } }
  | restart : SerialChange i s s.uartRestart
  | busReset (hi : i = .evBusReset) : SerialChange i s { s with
      txrb := s.txrb.clear, rb0 := s.rb0.clear
      rx := { s.rx with dmaRem := s.rx.cap, tail := 0, lastLen := 0, armed := false }
      uart := Uart.reset, pin := { s.pin with dtr := false, rts := false } }
  | transmit (d : List Byte) : SerialChange i s (s.uartTransmit d).1
  | txStart : SerialChange i s s.txStart
  | pollRx : SerialChange i s s.pollRx
  | copyRx (n : Nat) : SerialChange i s (s.uartCopyRx n).1
  | txDone {t : State} (h : s.txDmaDone = .ok t) : SerialChange i s t
  | rxByte (b : Byte) : SerialChange i s (s.rxByte b)
  | flags (o p : Bool) : SerialChange i s { s with uart := { s.uart with overrun := o, parityErr := p } }
  | pins (p : Pins) : SerialChange i s { s with pin := p }
  | abort {t : State} (h : s.abortChunk = .ok t) : SerialChange i s t

/-- `s` with the endpoints, and the callback in progress, that `u` has. -/
def State.withEps (s u : State) : State :=
  { s with epOut := u.epOut, epIn := u.epIn, usb := { s.usb with inCallback := u.usb.inCallback } }

/-- A change of the endpoints from 1 on, their packet memory, or what the host has received from them. -/
inductive EpChange (s : State) : State → Prop where
  | setUp {a : EpAddr} {n : Nat} {ty : EpType} {t : State} (h : s.epSetup a n ty = .ok t) : EpChange s t
  | transmit {a : EpAddr} {d : List Byte} {t : State} {c : ResultCode} (h : s.epTransmit a d = .ok (t, c)) : EpChange s t
  | read {a : EpAddr} {n : Nat} {t : State} {r : Option (List Byte)} (h : s.epReadPacket a n = .ok (t, r)) : EpChange s t
  | pause (a : EpAddr) (p : Bool) (hd : a.dir = .OUT) (hc : (s.ep a).cfg = true) :
      EpChange s (s.syncOrDefer a { s.ep a with paused := p })
  | halt (a : EpAddr) (b : Bool) (hc : (s.ep a).cfg = true) : EpChange s (s.syncOrDefer a { s.ep a with halt := b })
  | inDone {a : EpAddr} {t : State} (he : (s.ep a).inDoneEnabled = true) (h : s.epInDone a = .ok t) : EpChange s t
  | outPacket {a : EpAddr} {d : List Byte} {t : State} (he : (s.ep a).outEnabled d.length = true)
      (h : s.epOutPacket a d = .ok t) : EpChange s t
  | callback {a : EpAddr} {u : State} (he : (s.ep a).irqEnabled = true) (h : s.usbIrq a = .ok u) :
      EpChange s (s.withEps u)
  | deconfigure : EpChange s s.deconfigureAll

/-- A change of the control context, or of what goes with it: the stall count, the address, endpoint 0's packets. -/
inductive CtrlChange (i : Instr) (s : State) : State → Prop where
  | stage (c : Ctrl) (hb : c.buf = s.ctrl.buf) : CtrlChange i s { s with ctrl := c }
  | store (a : Nat) (d : List Byte) (hd : a + d.length ≤ Config.ctrlBufCap) :
      CtrlChange i s { s with ctrl := { s.ctrl with buf := s.ctrl.buf.writeBytes a d } }
  | stall : CtrlChange i s s.stall
  | inDone (hi : i = .evCtrlInDone) : CtrlChange i s s.ctrlInDone
  | busReset (hi : i = .evBusReset) : CtrlChange i s { s with
      ctrl := { Ctrl.reset with setup := s.ctrl.setup, buf := s.ctrl.buf }, usb := { s.usb with address := 0 } }

/-- A change of the filter table, the configuration value or the bridge's own state. -/
inductive BridgeChange (i : Instr) (s : State) : State → Prop where
  | filter (hi : SetsFilters i) (f : Filter) (hf : s.filters.length ≠ Config.filterCap) :
      BridgeChange i s { s with filters := s.filters ++ [f] }
  | config (v : Byte) (hv : v = 0 ∨ v = 1) : BridgeChange i s { s with usb := { s.usb with config := v } }
  | gather : BridgeChange i s { s with br := { s.br with pending :=
      s.br.pending ||| (if s.uart.overrun then overrunBit else 0) ||| (if s.uart.parityErr then parityBit else 0) } }
  | notified : BridgeChange i s { s with br := { s.br with lastState := s.serialState, pending := 0 } }
  | batch (w : Word) (z : Bool) : BridgeChange i s { s with br := { s.br with lastTxTime := w, zlpNeeded := z } }
  | clear (w : Word) (z : Bool) : BridgeChange i s { s with br := ⟨0, 0, w, z⟩ }

/-- One elementary change that `i` can make. -/
inductive Change (i : Instr) (s : State) : State → Prop where
  | serial {t : State} (h : SerialChange i s t) : Change i s t
  | endpoint {t : State} (h : EpChange s t) : Change i s t
  | control {t : State} (hi : ServesEp0 i) (h : CtrlChange i s t) : Change i s t
  | bridge {t : State} (h : BridgeChange i s t) : Change i s t
  | marks (f : Option FaultCode) (r : Option Byte) (ib : List Byte) (q : Reply) :
      Change i s { s with fault := f, refused := r, inbox := ib, reply := q }

/-- `t` is `s` after a sequence of elementary changes that `i` can make. -/
abbrev Changes (i : Instr) : State → State → Prop := Relation.ReflTransGen (Change i)

section
variable {i : Instr} {s t u : State}

theorem SerialChange.changes (h : SerialChange i s t) : Changes i s t := .single (.serial h)
theorem EpChange.changes (h : EpChange s t) : Changes i s t := .single (.endpoint h)
theorem CtrlChange.changes (hi : ServesEp0 i) (h : CtrlChange i s t) : Changes i s t := .single (.control hi h)
theorem BridgeChange.changes (h : BridgeChange i s t) : Changes i s t := .single (.bridge h)

theorem Changes.stage (hi : ServesEp0 i) (s : State) (c : Ctrl) (hb : c.buf = s.ctrl.buf) :
    Changes i s { s with ctrl := c } := (CtrlChange.stage c hb).changes hi

theorem Changes.answer (h : Changes i s t) (c : ResultCode) (v : Value) : Changes i s (t.answer c v) :=
  h.tail (.marks t.fault t.refused t.inbox (.result c v))
theorem Changes.taken (h : Changes i s t) : Changes i s t.taken := h.tail (.marks t.fault t.refused t.inbox .event)
theorem Changes.waits (s : State) : Changes i s s.waits := .single (.marks s.fault s.refused s.inbox .notEnabled)
theorem Changes.refuse (s : State) (op : Byte) : Changes i s (s.refuse op) :=
  .single (.marks s.fault (some op) s.inbox (.refused op))
theorem Changes.raise (s : State) (c : FaultCode) : Changes i s (s.raise c) :=
  .single (.marks (some c) s.refused s.inbox (.faulted c))
theorem Changes.consume (s : State) (rest : List Byte) : Changes i s (s.consume rest) :=
  .single (.marks s.fault s.refused rest s.reply)

/-- A property that every elementary change keeps is kept by a sequence of them. -/
theorem Changes.keeps {P : State → Prop} (hP : ∀ {s t : State}, Change i s t → P s → P t) (h : Changes i s t)
    (hs : P s) : P t := by
  induction h with
  | refl => exact hs
  | tail _ hc ih => exact hP hc ih

/-! ## The UART's operations -/

theorem State.uartConfigure_changes (hi : SetsCoding i) (s : State) (p : List Byte) :
    Changes i s (s.uartConfigure p).1 := by
  rcases s.uartConfigure_cases p with ⟨c, -, hc, h⟩ | ⟨-, h⟩ <;> rw [h]
  exact (SerialChange.configure hi c hc).changes

theorem State.uartEnable_changes (h : s.uartEnable = .ok t) : Changes i s t := by
  obtain ⟨u, hu, rfl⟩ := except_map_eq_ok.1 h
  exact (SerialChange.abort hu).changes.trans SerialChange.restart.changes

theorem State.uartPoll_changes (s : State) : Changes i s s.uartPoll :=
  SerialChange.txStart.changes.trans (SerialChange.pollRx.changes.trans (SerialChange.pins _).changes)

theorem State.gatherFlags_changes (s : State) : Changes i s s.gatherFlags :=
  BridgeChange.gather.changes.trans (SerialChange.flags false false).changes

/-! ## The endpoints' operations -/

theorem State.epPause_changes {a : EpAddr} (h : s.epPause a = .ok t) : Changes i s t := by
  obtain ⟨e, he, rfl⟩ := except_map_eq_ok.1 h
  obtain ⟨hd, hc, rfl⟩ := State.epFor_eq_ok.1 he
  exact (EpChange.pause a true hd hc).changes

theorem State.epUnpause_changes {a : EpAddr} (h : s.epUnpause a = .ok t) : Changes i s t := by
  obtain ⟨e, he, rfl⟩ := except_map_eq_ok.1 h
  obtain ⟨hd, hc, rfl⟩ := State.epFor_eq_ok.1 he
  exact (EpChange.pause a false hd hc).changes

theorem State.epSetHalt_changes {a : EpAddr} (h : s.epSetHalt a = .ok t) : Changes i s t := by
  obtain ⟨e, he, rfl⟩ := except_map_eq_ok.1 h
  obtain ⟨hc, rfl⟩ := State.epAny_eq_ok.1 he
  exact (EpChange.halt a true hc).changes

theorem State.epClearHalt_changes {a : EpAddr} (h : s.epClearHalt a = .ok t) : Changes i s t := by
  obtain ⟨e, he, rfl⟩ := except_map_eq_ok.1 h
  obtain ⟨hc, rfl⟩ := State.epAny_eq_ok.1 he
  exact (EpChange.halt a false hc).changes

/-! ## The bulk-OUT callback -/

/-- `t` differs from `s` in its endpoints and the callback in progress only. -/
def EpsOnly (s t : State) : Prop := t = s.withEps t

theorem EpsOnly.trans (h1 : EpsOnly s t) (h2 : EpsOnly t u) : EpsOnly s u := by
  unfold EpsOnly at *
  rw [h2, h1]
  rfl

theorem EpsOnly.setEp (s : State) (a : EpAddr) (e : Endpoint) : EpsOnly s (s.setEp a e) := by
  unfold EpsOnly State.setEp
  split <;> rfl

theorem EpsOnly.epReadPacket {a : EpAddr} {n : Nat} {r : Option (List Byte)} (h : s.epReadPacket a n = .ok (t, r)) :
    EpsOnly s t := by
  obtain ⟨-, -, -, ⟨-, rfl, -⟩ | ⟨-, -, -, rfl, -⟩⟩ := State.epReadPacket_eq_ok.1 h
  · rfl
  · exact EpsOnly.setEp _ _ _

theorem EpsOnly.updatePause (h : s.updatePause = .ok t) : EpsOnly s t := by
  rcases State.updatePause_cases h with rfl | ⟨-, -, rfl⟩ | ⟨-, -, rfl⟩
  · rfl
  · rw [State.syncOrDefer_eq]; exact EpsOnly.setEp _ _ _
  · rw [State.syncOrDefer_eq]; exact EpsOnly.setEp _ _ _

/-- UART_TRANSMIT neither reads nor writes an endpoint. -/
theorem State.uartTransmit_withEps (s u : State) (d : List Byte) :
    ((s.withEps u).uartTransmit d).1 = (s.uartTransmit d).1.withEps u := by
  simp only [State.uartTransmit_fst]
  rfl

/-- EV_USB_IRQ changes the endpoints, and hands the packet it reads to UART_TRANSMIT. -/
theorem State.usbIrq_eq_ok {a : EpAddr} (h : s.usbIrq a = .ok u) :
    EpsOnly s u ∨ ∃ b, EpsOnly (s.uartTransmit b).1 u := by
  obtain ⟨w, hw, rfl⟩ := State.dispatchCompletion_eq_ok.1 h
  have hs := EpsOnly.setEp s a { s.ep a with irq := (s.ep a).irq - 1 }
  generalize s.setEp a { s.ep a with irq := (s.ep a).irq - 1 } = s1 at *
  have hin : EpsOnly s (s1.enterCallback a) := hs.trans rfl
  have hout : EpsOnly w w.leaveCallback.syncAllPending := rfl
  cases hh : (s1.ep a).handler with
  | none =>
    rw [hh] at hw
    cases hw
    exact .inl (hin.trans hout)
  | some k =>
    cases k
    rw [hh] at hw
    rcases State.onUsbDataReceived_eq_ok hw with hr | ⟨v, b, hr, hp⟩
    · exact .inl ((hin.trans (.epReadPacket hr)).trans hout)
    · have hv : EpsOnly s v := hin.trans (.epReadPacket hr)
      have hb : EpsOnly (s.uartTransmit b).1 (v.uartTransmit b).1 := by
        rw [hv, State.uartTransmit_withEps]
        rfl
      exact .inr ⟨b, (hb.trans (.updatePause hp)).trans hout⟩

theorem State.usbIrq_changes {a : EpAddr} (he : (s.ep a).irqEnabled = true) (h : s.usbIrq a = .ok u) :
    Changes i s u := by
  have hc : Changes i s (s.withEps u) := (EpChange.callback he h).changes
  rcases State.usbIrq_eq_ok h with hu | ⟨b, hu⟩
  · rwa [← hu] at hc
  · have ht : Changes i (s.withEps u) ((s.withEps u).uartTransmit b).1 := (SerialChange.transmit b).changes
    rw [State.uartTransmit_withEps, ← show u = (s.uartTransmit b).1.withEps u from hu] at ht
    exact hc.trans ht

/-! ## The poll -/

theorem State.updatePause_changes (h : s.updatePause = .ok t) : Changes i s t := by
  unfold State.updatePause at h
  simp only at h
  split at h
  · cases h; exact .refl
  split at h
  · exact State.epPause_changes h
  split at h
  · exact State.epUnpause_changes h
  · cases h; exact .refl

theorem State.serialState_epTransmit {a : EpAddr} {d : List Byte} {c : ResultCode} (h : s.epTransmit a d = .ok (t, c)) :
    t.serialState = s.serialState := by
  obtain ⟨-, -, -, ⟨-, rfl, -⟩ | ⟨-, -, rfl, -⟩⟩ := State.epTransmit_eq_ok.1 h
  · rfl
  · simp [State.serialState]

theorem State.notify_changes (h : s.notify = .ok t) : Changes i s t := by
  rcases State.notify_eq_ok h with rfl | ⟨-, u, hu, rfl⟩
  · exact .refl
  · have hn : BridgeChange i u { u with br := { u.br with lastState := s.serialState, pending := 0 } } := by
      rw [← State.serialState_epTransmit hu]
      exact .notified
    exact (EpChange.transmit hu).changes.trans hn.changes

theorem State.sendPackets_changes (mps n : Nat) : ∀ {s t : State} {left lastk k : Nat},
    s.sendPackets mps n left lastk = .ok (t, k) → Changes i s t := by
  induction n with
  | zero =>
    intro s t left lastk k h
    cases h
    exact .refl
  | succ n ih =>
    intro s t left lastk k h
    unfold State.sendPackets at h
    split at h
    · cases h; exact .refl
    · simp only at h
      split at h
      · cases h
      · rename_i u c hu
        exact ((SerialChange.copyRx _).changes.trans (EpChange.transmit hu).changes).trans (ih h)

theorem State.rxToUsb_changes {now : Word} (h : s.rxToUsb now = .ok t) : Changes i s t := by
  unfold State.rxToUsb at h
  simp only at h
  split at h
  · cases h; exact .refl
  split at h
  · split at h
    · obtain ⟨⟨u, c⟩, hu, rfl⟩ := except_map_eq_ok.1 h
      exact (EpChange.transmit hu).changes.trans (BridgeChange.batch _ _).changes
    · cases h; exact .refl
  split at h
  · cases h; exact .refl
  split at h
  · cases h; exact .refl
  split at h
  · cases h; exact .refl
  · obtain ⟨⟨u, k⟩, hu, rfl⟩ := except_map_eq_ok.1 h
    exact (State.sendPackets_changes _ _ hu).trans (BridgeChange.batch _ _).changes

theorem State.bridgePoll_changes {now : Word} (h : s.bridgePoll now = .ok t) : Changes i s t := by
  have h1 : Changes i s s.uartPoll.gatherFlags := s.uartPoll_changes.trans (State.gatherFlags_changes _)
  rcases State.bridgePoll_eq_ok.1 h with ⟨-, rfl⟩ | ⟨-, u, v, hu, hv, ht⟩
  · exact h1
  · calc Changes i s s.uartPoll.gatherFlags := h1
      Changes i _ u := State.updatePause_changes hu
      Changes i _ v := State.notify_changes hv
      Changes i _ t := State.rxToUsb_changes ht

theorem State.registerFilter_changes (hi : SetsFilters i) {f : Filter} (h : s.registerFilter f = .ok t) :
    Changes i s t := by
  obtain ⟨hf, rfl⟩ := State.registerFilter_eq_ok.1 h
  exact (BridgeChange.filter hi f hf).changes

theorem State.bridgeInit_changes (hi : SetsFilters i) (h : s.bridgeInit = .ok t) : Changes i s t := by
  obtain ⟨u, hu, rfl⟩ := except_map_eq_ok.1 h
  exact (State.registerFilter_changes hi hu).trans (BridgeChange.clear 0 false).changes

/-! ## Control transfers -/

theorem State.cdc_changes (s : State) (req : Request) (data : List Byte) (hi : data.length = 7 → SetsCoding i) :
    Changes i s (s.cdc req data).1 := by
  rcases s.cdc_cases req data with h | h | h | h | ⟨c, -, hc, hl, h⟩ <;> rw [h]
  · exact (SerialChange.pins _).changes
  · exact (SerialChange.configure (hi hl) c hc).changes

theorem State.setConfig_changes (h : s.setConfig = .ok t) : Changes i s t := by
  obtain ⟨s1, s2, s3, s4, h1, h2, h3, h4, rfl⟩ := State.setConfig_eq_ok.1 h
  calc Changes i s s1 := (EpChange.setUp h1).changes
    Changes i _ s2 := (EpChange.setUp h2).changes
    Changes i _ s3 := (EpChange.setUp h3).changes
    Changes i _ s4 := State.uartEnable_changes h4
    Changes i _ _ := (BridgeChange.clear s4.br.lastTxTime false).changes

theorem State.setConfiguration_changes {req : Request} {r : HandlerResult} (h : s.setConfiguration req = .ok (t, r)) :
    Changes i s t := by
  have hd : Changes i s s.deconfigureAll := EpChange.deconfigure.changes
  rcases State.setConfiguration_eq_ok h with ⟨-, -, rfl, -⟩ | ⟨-, -, rfl⟩ | ⟨-, -, hc⟩
  · exact .refl
  · exact hd.trans (BridgeChange.config 0 (.inl rfl)).changes
  · exact (hd.trans (BridgeChange.config 1 (.inr rfl)).changes).trans (State.setConfig_changes hc)

theorem State.standard_changes (hi : ServesEp0 i) {req : Request} {r : HandlerResult} (h : s.standard req = .ok (t, r)) :
    Changes i s t := by
  rcases State.standard_eq_ok h with rfl | ⟨-, set, hf⟩ | ⟨-, -, -, -, -, rfl⟩ | ⟨-, -, hc⟩
  · exact .refl
  · rcases State.epFeature_eq_ok hf with ⟨rfl, -⟩ | ⟨-, a, ha, -, rfl⟩
    · exact .refl
    · exact (EpChange.halt a set ha).changes
  · exact Changes.stage hi _ _ rfl
  · exact State.setConfiguration_changes hc

theorem State.dispatchRequest_changes (hi : ServesEp0 i) {req : Request} {data : List Byte} {r : HandlerResult}
    (hd : data.length = 7 → SetsCoding i) (h : s.dispatchRequest req data = .ok (t, r)) : Changes i s t := by
  rw [State.dispatchRequest_eq] at h
  split at h
  · have ht : (s.cdc req data).1 = t := by rw [Except.ok.inj h]
    exact ht ▸ s.cdc_changes req data hd
  · exact State.standard_changes hi h

theorem Ctrl.sendNextIn_buf (c : Ctrl) : c.sendNextIn.buf = c.buf := by
  rcases c.sendNextIn_cases with ⟨-, -, h⟩ | ⟨-, h⟩ <;> rw [h]

theorem State.completeRequest_changes (hi : ServesEp0 i) (s : State) (r : HandlerResult) :
    Changes i s (s.completeRequest r) := by
  rcases s.completeRequest_cases r with ⟨-, h⟩ | ⟨resp, -, ⟨-, -, h⟩ | ⟨-, h⟩⟩ <;> rw [h]
  · exact CtrlChange.stall.changes hi
  · exact Changes.stage hi _ _ (Ctrl.sendNextIn_buf _)
  · exact Changes.stage hi _ _ rfl

theorem State.serveRequest_changes (hi : ServesEp0 i) {data : List Byte} (hd : data.length = 7 → SetsCoding i)
    (h : s.serveRequest data = .ok t) : Changes i s t := by
  obtain ⟨⟨u, r⟩, hu, rfl⟩ := except_map_eq_ok.1 h
  exact (State.dispatchRequest_changes hi hd hu).trans (State.completeRequest_changes hi u r)

theorem State.setupPacket_changes (hi : ServesEp0 i) {p : List Byte} (h : s.setupPacket p = .ok t) : Changes i s t := by
  have hb : Changes i s { s with ctrl := s.ctrl.beginSetup p } := Changes.stage hi _ _ rfl
  rcases State.setupPacket_eq_ok h with ⟨-, -, rfl⟩ | ⟨-, -, -, rfl⟩ | ⟨-, hs⟩
  · exact hb.trans (CtrlChange.stall.changes hi)
  · exact hb.trans (Changes.stage hi _ _ rfl)
  · exact hb.trans (State.serveRequest_changes hi (fun h => absurd h (by decide)) hs)

theorem State.ctrlOutData_changes {d : List Byte} (hi : ServesEp0 i) (hc : SetsCoding i) (h : s.ctrlOutData d = .ok t) :
    Changes i s t := by
  rcases State.ctrlOutData_eq_ok h with ⟨-, rfl⟩ | ⟨-, hcap, hrest⟩
  · exact CtrlChange.stall.changes hi
  have hw : Changes i s { s with ctrl := { s.ctrl with
      buf := s.ctrl.buf.writeBytes s.ctrl.cursor d, cursor := s.ctrl.cursor + d.length } } :=
    ((CtrlChange.store _ d hcap).changes hi).trans (Changes.stage hi _ _ rfl)
  rcases hrest with ⟨-, hs⟩ | ⟨-, -, rfl⟩ | ⟨-, -, rfl⟩
  · exact hw.trans (State.serveRequest_changes hi (fun _ => hc) hs)
  · exact hw.trans (CtrlChange.stall.changes hi)
  · exact hw.trans (Changes.stage hi _ _ rfl)

theorem State.ctrlOut_changes {d : List Byte} (hi : ServesEp0 i) (hc : SetsCoding i) (h : s.ctrlOut d = .ok t) :
    Changes i s t := by
  unfold State.ctrlOut at h
  split at h
  · exact State.ctrlOutData_changes hi hc h
  · exact State.ctrlOutData_changes hi hc h
  · cases h; exact Changes.stage hi _ _ rfl
  · cases h; exact Changes.stage hi _ _ rfl
  · cases h; exact Changes.stage hi _ _ rfl
  · cases h; exact CtrlChange.stall.changes hi
  · cases h; exact .refl
  · cases h; exact .refl

theorem State.busReset_changes (h : s.busReset = .ok t) : Changes .evBusReset s t := by
  obtain ⟨u, hu, rfl⟩ := State.busReset_eq_ok.1 h
  have hi : ServesEp0 .evBusReset := .inr (.inr (.inr rfl))
  calc Changes .evBusReset s u := (SerialChange.abort hu).changes
    Changes .evBusReset _ u.deconfigureAll := EpChange.deconfigure.changes
    Changes .evBusReset _ _ := (CtrlChange.busReset rfl).changes hi
    Changes .evBusReset _ _ := (BridgeChange.config 0 (.inl rfl)).changes
    Changes .evBusReset _ _ := (BridgeChange.clear 0 false).changes
    Changes .evBusReset _ u.busRestart := (SerialChange.busReset rfl).changes

/-! ## Every operation -/

/-- A concluded operation made changes, or left a fault mark. -/
theorem State.conclude_changes {α : Type} {r : Except Stop α} {f : α → State} (h : s.conclude (r.map f) = .next t)
    (hr : ∀ v, r = .ok v → Changes i s (f v)) : Changes i s t := by
  rcases State.conclude_eq_next.1 h with h | ⟨c, -, rfl⟩
  · obtain ⟨v, hv, rfl⟩ := except_map_eq_ok.1 h
    exact hr v hv
  · exact .raise s c

/-- An endpoint command is refused, or acts on the endpoint its byte names. -/
theorem State.withEp_changes {op addr : Byte} {f : EpAddr → Host.Outcome State Fault Refusal}
    (h : s.withEp op addr f = .next t) (hf : ∀ a, f a = .next t → Changes i s t) : Changes i s t := by
  unfold State.withEp at h
  split at h
  · exact hf _ h
  · cases h; exact .refuse s op

/-- An endpoint command whose effect on the endpoint it names makes changes. -/
theorem State.epCommand_changes {α : Type} {op addr : Byte} {r : EpAddr → Except Stop α} {f : α → State}
    (h : s.withEp op addr (fun a => s.conclude ((r a).map f)) = .next t)
    (hr : ∀ a v, r a = .ok v → Changes i s (f v)) : Changes i s t :=
  State.withEp_changes h fun a ha => State.conclude_changes ha (hr a)

/-- A command that is refused unless its operand is legal. -/
theorem refusedUnless_changes {b : Bool} {op : Byte} (h : (if b then .next u else .next (s.refuse op) :
    Host.Outcome State Fault Refusal) = .next t) (hu : Changes i s u) : Changes i s t := by
  split at h <;> cases h
  · exact hu
  · exact .refuse s op

/-- An operation that ends has made a sequence of elementary changes. -/
theorem exec_changes (h : exec i s = .next t) : Changes i s t := by
  cases i with
  | rbClear ring => exact refusedUnless_changes h (SerialChange.rb0Clear.changes.answer _ _)
  | rbEnqueue ring data => exact refusedUnless_changes h ((SerialChange.rb0Put data).changes.answer _ _)
  | rbDequeue ring limit => exact refusedUnless_changes h ((SerialChange.rb0Take limit.toNat).changes.answer _ _)
  | rbAvailableSpace ring => exact refusedUnless_changes h (Changes.answer .refl _ _)
  | rbOccupiedLen ring => exact refusedUnless_changes h (Changes.answer .refl _ _)
  | rbContigLen ring => exact refusedUnless_changes h (Changes.answer .refl _ _)
  | uartConfigure coding =>
    cases h
    exact (s.uartConfigure_changes (.inl ⟨coding, rfl⟩) coding).answer _ _
  | uartEnable => exact State.conclude_changes h fun v hv => (State.uartEnable_changes hv).answer _ _
  | uartTransmit data => cases h; exact (SerialChange.transmit data).changes.answer _ _
  | uartPoll => cases h; exact s.uartPoll_changes.answer _ _
  | uartCopyRx limit => cases h; exact (SerialChange.copyRx limit.toNat).changes.answer _ _
  | uartHasOverrun => cases h; exact (SerialChange.flags false s.uart.parityErr).changes.answer _ _
  | uartGetDsr => cases h; exact Changes.answer .refl _ _
  | uartGetDcd => cases h; exact Changes.answer .refl _ _
  | uartSetDtr arg => exact refusedUnless_changes h ((SerialChange.pins _).changes.answer _ _)
  | uartTxSpace => cases h; exact Changes.answer .refl _ _
  | uartRxLen => cases h; exact Changes.answer .refl _ _
  | uartGetCoding => cases h; exact Changes.answer .refl _ _
  | evUartTxDmaDone =>
    simp only [exec, execEvUartTxDmaDone] at h
    split at h
    · exact State.conclude_changes h fun v hv => (SerialChange.txDone hv).changes.taken
    · cases h; exact .waits s
  | evUartRxByte arg => exact refusedUnless_changes h (SerialChange.rxByte _).changes.taken
  | evUartParityError => cases h; exact (SerialChange.flags s.uart.overrun true).changes.taken
  | evPinLevels arg => exact refusedUnless_changes h (SerialChange.pins _).changes.taken
  | epSetup addr size type =>
    refine State.withEp_changes h fun a ha => ?_
    split at ha
    · exact State.conclude_changes ha fun v hv => (EpChange.setUp hv).changes.answer _ _
    · cases ha; exact .refuse s 0x30
  | epTransmitPacket addr data => exact State.epCommand_changes h fun a v hv => (EpChange.transmit hv).changes.answer _ _
  | epWriteAvail addr => exact State.epCommand_changes h fun a v hv => Changes.answer .refl _ _
  | epReadPacket addr limit =>
    refine State.epCommand_changes h fun a v hv => ?_
    have hr : Changes (.epReadPacket addr limit) s v.1 := (EpChange.read hv).changes
    split
    · exact hr.answer _ _
    · exact hr.answer _ _
  | epPause addr => exact State.epCommand_changes h fun a v hv => (State.epPause_changes hv).answer _ _
  | epUnpause addr => exact State.epCommand_changes h fun a v hv => (State.epUnpause_changes hv).answer _ _
  | epSetHalt addr => exact State.epCommand_changes h fun a v hv => (State.epSetHalt_changes hv).answer _ _
  | epClearHalt addr => exact State.epCommand_changes h fun a v hv => (State.epClearHalt_changes hv).answer _ _
  | evBusReset => exact State.conclude_changes h fun v hv => (State.busReset_changes hv).taken
  | evEpInDone addr =>
    refine State.withEp_changes h fun a ha => ?_
    split at ha
    · rename_i he
      exact State.conclude_changes ha fun v hv => (EpChange.inDone he hv).changes.taken
    · cases ha; exact .waits s
  | evEpOut addr data =>
    refine State.withEp_changes h fun a ha => ?_
    split at ha
    · rename_i he
      exact State.conclude_changes ha fun v hv => (EpChange.outPacket he hv).changes.taken
    · cases ha; exact .waits s
  | epDeconfigureAll => cases h; exact EpChange.deconfigure.changes.answer _ _
  | epReadStatus sel =>
    simp only [exec, execEpReadStatus] at h
    split at h <;> cases h
    · exact Changes.answer .refl _ _
    · exact .refuse s 0x3C
  | evUsbIrq addr =>
    refine State.withEp_changes h fun a ha => ?_
    split at ha
    · rename_i he
      exact State.conclude_changes ha fun v hv => (State.usbIrq_changes he hv).taken
    · cases ha; exact .waits s
  | evSetup packet =>
    exact State.conclude_changes h fun v hv => (State.setupPacket_changes (.inl ⟨packet, rfl⟩) hv).taken
  | evCtrlOut data =>
    simp only [exec, execEvCtrlOut] at h
    split at h
    · exact State.conclude_changes h fun v hv =>
        (State.ctrlOut_changes (.inr (.inl ⟨data, rfl⟩)) (.inr ⟨data, rfl⟩) hv).taken
    · cases h; exact .waits s
  | evCtrlInDone =>
    simp only [exec, execEvCtrlInDone] at h
    split at h <;> cases h
    · exact ((CtrlChange.inDone rfl).changes (.inr (.inr (.inl rfl)))).taken
    · exact .waits s
  | ctrlRegisterFilter handler value mask =>
    simp only [exec, execCtrlRegisterFilter] at h
    split at h
    · exact State.conclude_changes h fun v hv =>
        (State.registerFilter_changes (.inr ⟨handler, value, mask, rfl⟩) hv).answer _ _
    · cases h; exact .refuse s 0x43
  | ctrlReadState => cases h; exact Changes.answer .refl _ _
  | bridgePoll now => exact State.conclude_changes h fun v hv => (State.bridgePoll_changes hv).answer _ _
  | bridgeInit => exact State.conclude_changes h fun v hv => (State.bridgeInit_changes (.inl rfl) hv).answer _ _

/-- A step that ends is the changes of one operation. -/
theorem step_changes (h : step s = .next t) : ∃ i, Changes i s t := by
  unfold step at h
  split at h
  · cases h
  split at h
  · rename_i i rest _
    exact ⟨i, (Changes.consume s rest).trans (exec_changes h)⟩
  · rename_i op rest _
    cases h
    exact ⟨.uartPoll, (Changes.consume s rest).trans (Changes.refuse _ op)⟩
  · cases h
  · cases h

/-- What every elementary change keeps, every step keeps. -/
theorem step_keeps {P : State → Prop} (hP : ∀ {i : Instr} {s t : State}, Change i s t → P s → P t) (hs : P s)
    (h : step s = .next t) : P t := by
  obtain ⟨i, hc⟩ := step_changes h
  exact hc.keeps hP hs

end
end Sys2Proof.Machine
end

section
/-! SUPPORT. The frame of each kind of elementary change: what it leaves as it was. -/

namespace Sys2Proof.Machine

section
variable {i : Instr} {s t : State}

/-- A serial change leaves the endpoints, the control context, the bridge and the marks; the wire log only grows. -/
theorem SerialChange.frame (h : SerialChange i s t) : ∃ rb0 txrb rx uart pin w d, s.wireOut <+: w ∧ t = { s with
    rb0 := rb0, txrb := txrb, rx := rx, uart := uart, pin := pin, wireOut := w, draws := d } := by
  cases h with
  | rb0Put d => exact ⟨_, _, _, _, _, _, _, List.prefix_rfl, rfl⟩
  | rb0Take n => exact ⟨_, _, _, _, _, _, _, List.prefix_rfl, rfl⟩
  | rb0Clear => exact ⟨_, _, _, _, _, _, _, List.prefix_rfl, rfl⟩
  | configure hi c hc => exact ⟨_, _, _, _, _, _, _, List.prefix_rfl, rfl⟩
  | restart => exact ⟨_, _, _, _, _, _, _, List.prefix_rfl, rfl⟩
  | busReset hi => exact ⟨_, _, _, _, _, _, _, List.prefix_rfl, rfl⟩
  | transmit d => exact ⟨_, _, _, _, _, _, _, List.prefix_rfl, s.uartTransmit_fst d⟩
  | txStart => exact ⟨_, _, _, _, _, _, _, List.prefix_rfl, s.txStart_eq⟩
  | pollRx => exact ⟨_, _, _, _, _, _, _, List.prefix_rfl, s.pollRx_eq⟩
  | copyRx n => exact ⟨_, _, _, _, _, _, _, List.prefix_rfl, s.uartCopyRx_fst n⟩
  | txDone h =>
    obtain ⟨-, rfl⟩ := State.txDmaDone_eq_ok.1 h
    exact ⟨_, _, _, _, _, _, _, List.prefix_append _ _, State.txStart_eq _⟩
  | rxByte b =>
    by_cases ha : s.rx.armed = true
    · exact ⟨_, _, _, _, _, _, _, List.prefix_rfl, if_pos ha⟩
    · exact ⟨_, _, _, _, _, _, _, List.prefix_rfl, if_neg ha⟩
  | flags o p => exact ⟨_, _, _, _, _, _, _, List.prefix_rfl, rfl⟩
  | pins p => exact ⟨_, _, _, _, _, _, _, List.prefix_rfl, rfl⟩
  | abort h =>
    rcases State.abortChunk_eq_ok.1 h with ⟨-, rfl⟩ | ⟨-, -, rfl⟩
    · exact ⟨_, _, _, _, _, _, _, List.prefix_rfl, rfl⟩
    · exact ⟨_, _, _, _, _, _, _, List.prefix_append _ _, rfl⟩

/-- Storing an endpoint writes the two banks only. -/
theorem State.setEp_frame (s : State) (a : EpAddr) (e : Endpoint) :
    s.setEp a e = { s with epOut := (s.setEp a e).epOut, epIn := (s.setEp a e).epIn } := by
  unfold State.setEp
  split <;> rfl

/-- A change of the endpoints leaves the serial side, the control context, the bridge, the marks, and of the device the
address and the configuration; the host's log only grows. -/
theorem EpChange.frame (h : EpChange s t) : ∃ o i c n m l, s.hostIn <+: l ∧ t = { s with
    epOut := o, epIn := i, usb := { s.usb with inCallback := c, pmaNext := n }, pma := m, hostIn := l } := by
  cases h with
  | setUp h =>
    obtain ⟨-, -, -, rfl⟩ := State.epSetup_eq_ok.1 h
    exact ⟨_, _, _, _, _, _, List.prefix_rfl, State.setEp_frame _ _ _⟩
  | transmit h =>
    obtain ⟨-, -, -, ⟨-, rfl, -⟩ | ⟨-, -, rfl, -⟩⟩ := State.epTransmit_eq_ok.1 h
    · exact ⟨_, _, _, _, _, _, List.prefix_rfl, rfl⟩
    · exact ⟨_, _, _, _, _, _, List.prefix_rfl, State.setEp_frame _ _ _⟩
  | read h => exact ⟨_, _, _, _, _, _, List.prefix_rfl, EpsOnly.epReadPacket h⟩
  | pause a p hd hc =>
    rw [State.syncOrDefer_eq]
    exact ⟨_, _, _, _, _, _, List.prefix_rfl, State.setEp_frame _ _ _⟩
  | halt a b hc =>
    rw [State.syncOrDefer_eq]
    exact ⟨_, _, _, _, _, _, List.prefix_rfl, State.setEp_frame _ _ _⟩
  | inDone he h =>
    obtain ⟨-, rfl⟩ := State.epInDone_eq_ok.1 h
    exact ⟨_, _, _, _, _, _, List.prefix_append _ _, State.setEp_frame _ _ _⟩
  | outPacket he h =>
    obtain ⟨-, rfl⟩ := State.epOutPacket_eq_ok.1 h
    exact ⟨_, _, _, _, _, _, List.prefix_rfl, State.setEp_frame _ _ _⟩
  | callback he h => exact ⟨_, _, _, _, _, _, List.prefix_rfl, rfl⟩
  | deconfigure => exact ⟨_, _, _, _, _, _, List.prefix_rfl, rfl⟩

/-- A completed transfer's action writes the address only (R246). -/
theorem Usb.complete_frame (u : Usb) (o : Option Action) :
    u.complete o = { u with address := (u.complete o).address } := by
  cases o with
  | none => rfl
  | some x => cases x; rfl

/-- EV_CTRL_IN_DONE sends the loaded packet, and its status stage may write the address (43_control_transfer.md R229, R246). -/
theorem State.ctrlInDone_frame (s : State) : s.ctrlInDone = { s with
    ctrl := s.ctrlInDone.ctrl, usb := { s.usb with address := s.ctrlInDone.usb.address }
    hostIn := s.hostIn ++ [(Config.ep0In, s.ctrl.in0Data)] } := by
  unfold State.ctrlInDone
  cases s.ctrl.state with
  | STATUS_IN =>
    simp only [State.emitHost_usb]
    rw [Usb.complete_frame]
    rfl
  | _ => rfl

/-- A control change leaves the serial side, the endpoints from 1 on, the bridge, the marks, and of the device all but the
address; the stall count and the host's log only grow. -/
theorem CtrlChange.frame (h : CtrlChange i s t) : ∃ c n v l, s.stalls ≤ n ∧ s.hostIn <+: l ∧ t = { s with
    ctrl := c, stalls := n, usb := { s.usb with address := v }, hostIn := l } := by
  cases h with
  | stage c hb => exact ⟨_, _, _, _, le_rfl, List.prefix_rfl, rfl⟩
  | store a d hd => exact ⟨_, _, _, _, le_rfl, List.prefix_rfl, rfl⟩
  | stall => exact ⟨_, _, _, _, Nat.le_succ _, List.prefix_rfl, rfl⟩
  | inDone hi => exact ⟨_, _, _, _, le_rfl, List.prefix_append _ _, s.ctrlInDone_frame⟩
  | busReset hi => exact ⟨_, _, _, _, le_rfl, List.prefix_rfl, rfl⟩

/-- A bridge change leaves all but the bridge's own state, the filter table and the configuration value. -/
theorem BridgeChange.frame (h : BridgeChange i s t) :
    ∃ b fs v, t = { s with br := b, filters := fs, usb := { s.usb with config := v } } := by
  cases h with
  | filter hi f hf => exact ⟨_, _, _, rfl⟩
  | config v hv => exact ⟨_, _, _, rfl⟩
  | gather => exact ⟨_, _, _, rfl⟩
  | notified => exact ⟨_, _, _, rfl⟩
  | batch w z => exact ⟨_, _, _, rfl⟩
  | clear w z => exact ⟨_, _, _, rfl⟩

end
end Sys2Proof.Machine
end

section
/-! PROOF. Every step keeps the storage invariant (O9). -/

namespace Sys2Proof.Machine

/-- A memory in canonical form and inside its space. -/
def Memory.Good (m : Memory) (n : Nat) : Prop := m.wf = true ∧ m.within n = true

theorem Memory.Good.write {m : Memory} {n a : Nat} (h : m.Good n) (b : Byte) (ha : a < n) : (m.write a b).Good n :=
  ⟨Memory.wf_write a b h.1, Memory.within_write b ha h.2⟩

theorem Memory.Good.writeBytes {m : Memory} {n a : Nat} (h : m.Good n) (bs : List Byte) (ha : a + bs.length ≤ n) :
    (m.writeBytes a bs).Good n :=
  ⟨Memory.wf_writeBytes a bs h.1, Memory.within_writeBytes bs ha h.2⟩

theorem Ring.put_good {r : Ring} {n : Nat} (hc : r.cap = n) (hn : 0 < n) (h : r.storage.Good n) (d : List Byte) :
    (r.put d).1.storage.Good n := by
  subst hc
  exact ⟨Ring.put_wf d h.1, Ring.put_within d hn h.2⟩

/-- The storage invariant, one clause for each space. -/
theorem State.storageInv_iff {s : State} : s.StorageInv ↔
    (s.rb0.cap = 1024 ∧ s.rb0.storage.Good 1024) ∧ (s.txrb.cap = 1024 ∧ s.txrb.storage.Good 1024) ∧
    (s.rx.cap = 1024 ∧ s.rx.storage.Good 1024) ∧ s.pma.Good 512 ∧ s.ctrl.buf.Good 256 := by
  constructor
  · rintro ⟨h0, ht, hr, hw, hi⟩
    exact ⟨⟨h0, hw .rb0, hi .rb0⟩, ⟨ht, hw .txrb, hi .txrb⟩, ⟨hr, hw .rxrb, hi .rxrb⟩, ⟨hw .pma, hi .pma⟩,
      ⟨hw .cbuf, hi .cbuf⟩⟩
  · rintro ⟨⟨h0, g0⟩, ⟨ht, gt⟩, ⟨hr, gr⟩, gp, gc⟩
    refine ⟨h0, ht, hr, fun sp => ?_, fun sp => ?_⟩ <;> cases sp
    exacts [g0.1, gt.1, gr.1, gp.1, gc.1, g0.2, gt.2, gr.2, gp.2, gc.2]

section
variable {i : Instr} {s t : State}

theorem RxWindow.head_lt {x : RxWindow} (h : 0 < x.cap) : x.head < x.cap := Nat.mod_lt _ h

theorem SerialChange.keeps_storage (h : SerialChange i s t) (hs : s.StorageInv) : t.StorageInv := by
  rw [State.storageInv_iff] at hs ⊢
  obtain ⟨⟨h0, g0⟩, ⟨ht, gt⟩, ⟨hr, gr⟩, hrest⟩ := hs
  cases h with
  | rb0Put d => exact ⟨⟨h0, Ring.put_good h0 (by decide) g0 d⟩, ⟨ht, gt⟩, ⟨hr, gr⟩, hrest⟩
  | rb0Take n => exact ⟨⟨h0, g0⟩, ⟨ht, gt⟩, ⟨hr, gr⟩, hrest⟩
  | rb0Clear => exact ⟨⟨h0, g0⟩, ⟨ht, gt⟩, ⟨hr, gr⟩, hrest⟩
  | configure hi c hc => exact ⟨⟨h0, g0⟩, ⟨ht, gt⟩, ⟨hr, gr⟩, hrest⟩
  | restart => exact ⟨⟨h0, g0⟩, ⟨ht, gt⟩, ⟨hr, gr⟩, hrest⟩
  | busReset hi => exact ⟨⟨h0, g0⟩, ⟨ht, gt⟩, ⟨hr, gr⟩, hrest⟩
  | transmit d =>
    rw [State.uartTransmit_fst]
    exact ⟨⟨h0, g0⟩, ⟨ht, Ring.put_good ht (by decide) gt _⟩, ⟨hr, gr⟩, hrest⟩
  | txStart => rw [State.txStart_eq]; exact ⟨⟨h0, g0⟩, ⟨ht, gt⟩, ⟨hr, gr⟩, hrest⟩
  | pollRx => rw [State.pollRx_eq]; exact ⟨⟨h0, g0⟩, ⟨ht, gt⟩, ⟨hr, gr⟩, hrest⟩
  | copyRx n =>
    rw [State.uartCopyRx_fst]
    refine ⟨⟨h0, g0⟩, ⟨ht, gt⟩, ?_, hrest⟩
    simp only
    split <;> exact ⟨hr, gr⟩
  | txDone h =>
    obtain ⟨-, rfl⟩ := State.txDmaDone_eq_ok.1 h
    rw [State.txStart_eq]
    exact ⟨⟨h0, g0⟩, ⟨ht, gt⟩, ⟨hr, gr⟩, hrest⟩
  | rxByte b =>
    have hh : s.rx.head < 1024 := hr ▸ RxWindow.head_lt (by omega)
    unfold State.rxByte
    split
    · exact ⟨⟨h0, g0⟩, ⟨ht, gt⟩, ⟨hr, gr.write b hh⟩, hrest⟩
    · exact ⟨⟨h0, g0⟩, ⟨ht, gt⟩, ⟨hr, gr⟩, hrest⟩
  | flags o p => exact ⟨⟨h0, g0⟩, ⟨ht, gt⟩, ⟨hr, gr⟩, hrest⟩
  | pins p => exact ⟨⟨h0, g0⟩, ⟨ht, gt⟩, ⟨hr, gr⟩, hrest⟩
  | abort h =>
    rcases State.abortChunk_eq_ok.1 h with ⟨-, rfl⟩ | ⟨-, -, rfl⟩
    · exact ⟨⟨h0, g0⟩, ⟨ht, gt⟩, ⟨hr, gr⟩, hrest⟩
    · exact ⟨⟨h0, g0⟩, ⟨ht, gt⟩, ⟨hr, gr⟩, hrest⟩

/-- The endpoints' changes write packet memory inside its space only. -/
theorem EpChange.pma_good (h : EpChange s t) (hs : s.pma.Good 512) : t.pma.Good 512 := by
  cases h with
  | setUp h => obtain ⟨-, -, -, rfl⟩ := State.epSetup_eq_ok.1 h; simpa using hs
  | transmit h =>
    obtain ⟨-, -, -, ⟨-, rfl, -⟩ | ⟨-, hp, rfl, -⟩⟩ := State.epTransmit_eq_ok.1 h
    · exact hs
    · simpa using hs.writeBytes _ hp
  | read h => rw [EpsOnly.epReadPacket h]; exact hs
  | pause a p hd hc => simpa [State.syncOrDefer_eq] using hs
  | halt a b hc => simpa [State.syncOrDefer_eq] using hs
  | inDone he h => obtain ⟨-, rfl⟩ := State.epInDone_eq_ok.1 h; simpa [State.emitHost] using hs
  | outPacket he h =>
    obtain ⟨hp, rfl⟩ := State.epOutPacket_eq_ok.1 h
    simpa using hs.writeBytes _ hp
  | callback he h => exact hs
  | deconfigure => exact hs

/-- The control changes write the control buffer inside its space only. -/
theorem CtrlChange.buf_good (h : CtrlChange i s t) (hs : s.ctrl.buf.Good 256) : t.ctrl.buf.Good 256 := by
  cases h with
  | stage c hb => exact hb ▸ hs
  | store a d hd => exact hs.writeBytes d hd
  | stall => exact hs
  | inDone hi =>
    have hb : s.ctrlInDone.ctrl.buf = s.ctrl.buf := by
      unfold State.ctrlInDone
      cases s.ctrl.state with
      | DATA_IN => exact Ctrl.sendNextIn_buf _
      | _ => rfl
    exact hb ▸ hs
  | busReset hi => exact hs

theorem Change.keeps_storage (h : Change i s t) (hs : s.StorageInv) : t.StorageInv := by
  cases h with
  | serial h => exact h.keeps_storage hs
  | endpoint h =>
    obtain ⟨h0, ht, hr, gp, gc⟩ := State.storageInv_iff.1 hs
    have gp' := h.pma_good gp
    obtain ⟨_, _, _, _, _, _, -, rfl⟩ := h.frame
    exact State.storageInv_iff.2 ⟨h0, ht, hr, gp', gc⟩
  | control hi h =>
    obtain ⟨h0, ht, hr, gp, gc⟩ := State.storageInv_iff.1 hs
    have gc' := h.buf_good gc
    obtain ⟨_, _, _, _, -, -, rfl⟩ := h.frame
    exact State.storageInv_iff.2 ⟨h0, ht, hr, gp, gc'⟩
  | bridge h =>
    obtain ⟨_, _, _, rfl⟩ := h.frame
    rw [State.storageInv_iff] at hs ⊢
    exact hs
  | marks f r ib q =>
    rw [State.storageInv_iff] at hs ⊢
    exact hs

end

/-- Settles O9: every elementary change writes inside its space, in canonical form. -/
theorem storageInvKept : Obligations.StorageInvKept := by
  unfold Obligations.StorageInvKept
  exact fun s t hs h => step_keeps Change.keeps_storage hs h

end Sys2Proof.Machine
end

section
/-! PROOF. Every step keeps the serial invariant (O10). -/

namespace Sys2Proof.Machine

/-! ## Rings and the chunk in flight -/

theorem Ring.clear_inRange {r : Ring} (h : r.InRange) : r.clear.InRange := ⟨h.cap_pos, h.cap_pos⟩

theorem Ring.contig_pos {r : Ring} (h : r.InRange) (ho : 0 < r.occ) : 0 < r.contig := by
  have := h.tail_lt
  rw [Ring.occ_eq h] at ho
  unfold Ring.contig
  split_ifs at ho ⊢ <;> omega

/-- `put` never shortens the contiguous data: the head does not pass the tail. -/
theorem Ring.contig_le_put {r : Ring} (h : r.InRange) (d : List Byte) : r.contig ≤ (r.put d).1.contig := by
  have hs := Ring.space_add_occ h.cap_pos
  have ho := Ring.occ_eq h
  have hh := h.head_lt
  have ht := h.tail_lt
  obtain ⟨n, hn, hp⟩ : ∃ n, n ≤ r.space ∧ (r.put d).1.head = (r.head + n) % r.cap :=
    ⟨_, Nat.min_le_right _ _, r.put_head d⟩
  unfold Ring.contig
  rw [hp, Ring.put_cap, Ring.put_tail]
  rcases Nat.lt_or_ge (r.head + n) r.cap with hw | hw
  · rw [Nat.mod_eq_of_lt hw]
    split_ifs at ho ⊢ <;> omega
  · rw [Nat.mod_eq_sub_mod hw, Nat.mod_eq_of_lt (by omega)]
    split_ifs at ho ⊢ <;> omega

/-- A chunk holds at least one byte (41_uart_engine.md R142; 00_scope.md R7). -/
theorem chunkCap_pos (baud : Word) : 0 < chunkCap baud := by
  unfold chunkCap chunkCapWith Config.chunkMax Config.chunkMin
  omega

theorem RxWindow.InRange.cap_pos {x : RxWindow} (h : x.InRange) : 0 < x.cap := by rw [h.cap_eq]; decide

theorem RxWindow.InRange.head_lt {x : RxWindow} (h : x.InRange) : x.head < Config.rbCapRx :=
  h.cap_eq ▸ RxWindow.head_lt h.cap_pos

theorem RxWindow.InRange.len_lt {x : RxWindow} (h : x.InRange) : x.len < Config.rbCapRx :=
  h.cap_eq ▸ modSub_lt h.cap_pos

section
variable {i : Instr} {s t : State}

theorem Uart.reset_rxHwm : Uart.reset.rxHwm = highWaterMark Uart.reset.coding.baud := by decide

/-- `tx_start` starts a chunk inside the contiguous data, with at least one byte (R139). -/
theorem State.SerialInv.txStart (hs : s.SerialInv) : s.txStart.SerialInv := by
  rw [State.txStart_eq]
  by_cases h : s.uart.enabled = true ∧ s.uart.txBusy = false ∧ 0 < s.txrb.occ
  · simp only [if_pos h]
    have hc := Ring.contig_pos hs.txrb h.2.2
    have hk := chunkCap_pos s.uart.coding.baud
    exact { hs with
      busy := ⟨fun _ => Nat.lt_min.2 ⟨hc, hk⟩, fun _ => rfl⟩
      chunk := Nat.min_le_left _ _ }
  · simp only [if_neg h]
    exact hs

theorem SerialChange.keeps_serial (h : SerialChange i s t) (hs : s.SerialInv) : t.SerialInv := by
  cases h with
  | rb0Put d => exact { hs with rb0 := Ring.put_inRange hs.rb0 d }
  | rb0Take n => exact { hs with rb0 := Ring.take_inRange hs.rb0 n }
  | rb0Clear => exact { hs with rb0 := Ring.clear_inRange hs.rb0 }
  | configure hi c hc => exact { hs with legal := hc, hwm := rfl, effBaud := rfl }
  | restart =>
    exact { hs with
      txrb := Ring.clear_inRange hs.txrb
      rx := ⟨hs.rx.cap_eq, Nat.succ_pos 1023, le_rfl, Nat.succ_pos 1023, Nat.succ_pos 1023⟩
      busy := by simp [State.uartRestart]
      chunk := Nat.zero_le _ }
  | busReset hi =>
    exact { hs with
      rb0 := Ring.clear_inRange hs.rb0
      txrb := Ring.clear_inRange hs.txrb
      rx := ⟨hs.rx.cap_eq, hs.rx.cap_pos, hs.rx.cap_eq.le, Nat.succ_pos 1023, Nat.succ_pos 1023⟩
      busy := by simp [Uart.reset]
      chunk := Nat.zero_le _
      legal := rfl
      hwm := Uart.reset_rxHwm
      effBaud := rfl }
  | transmit d =>
    have hp : ({ s with txrb := (s.txrb.put (maskFor s.uart.coding d)).1 } : State).SerialInv :=
      { hs with
        txrb := Ring.put_inRange hs.txrb _
        chunk := hs.chunk.trans (Ring.contig_le_put hs.txrb _) }
    exact hp.txStart
  | txStart => exact hs.txStart
  | pollRx =>
    rw [State.pollRx_eq]
    have hh := hs.rx.head_lt
    have hl := hs.rx.len_lt
    have ht := hs.rx.tail_lt
    have hp := hs.rx.lastLen_lt
    exact { hs with rx := { hs.rx with
      tail_lt := by simp only; split <;> assumption
      lastLen_lt := by simp only; split_ifs <;> omega } }
  | copyRx n =>
    rw [State.uartCopyRx_fst]
    have hl := hs.rx.len_lt
    refine { hs with rx := ?_ }
    simp only
    split
    · exact { hs.rx with
        tail_lt := hs.rx.cap_eq ▸ Nat.mod_lt _ hs.rx.cap_pos
        lastLen_lt := by simp only; omega }
    · exact hs.rx
  | txDone h =>
    obtain ⟨-, rfl⟩ := State.txDmaDone_eq_ok.1 h
    refine State.SerialInv.txStart { hs with
      txrb := ⟨hs.txrb.head_lt, Nat.mod_lt _ hs.txrb.cap_pos⟩
      busy := by simp
      chunk := Nat.zero_le _ }
  | rxByte b =>
    unfold State.rxByte
    split
    · have h1 := hs.rx.rem_pos
      have h2 := hs.rx.rem_le
      exact { hs with rx := { hs.rx with
        rem_pos := by simp only; split <;> [decide; omega]
        rem_le := by simp only; split <;> omega } }
    · exact hs
  | flags o p => exact { hs with }
  | pins p => exact { hs with }
  | abort h =>
    rcases State.abortChunk_eq_ok.1 h with ⟨-, rfl⟩ | ⟨-, -, rfl⟩
    · exact hs
    · exact { hs with }

theorem Change.keeps_serial (h : Change i s t) (hs : s.SerialInv) : t.SerialInv := by
  cases h with
  | serial h => exact h.keeps_serial hs
  | endpoint h => obtain ⟨_, _, _, _, _, _, -, rfl⟩ := h.frame; exact { hs with }
  | control hi h => obtain ⟨_, _, _, _, -, -, rfl⟩ := h.frame; exact { hs with }
  | bridge h => obtain ⟨_, _, _, rfl⟩ := h.frame; exact { hs with }
  | marks f r ib q => exact { hs with }

end

/-- Settles O10: the invariant holds after every elementary change; the chunk in flight stays inside the contiguous data
because `put` never passes the tail. -/
theorem serialInvKept : Obligations.SerialInvKept := by
  unfold Obligations.SerialInvKept
  exact fun s t hs h => step_keeps Change.keeps_serial hs h

end Sys2Proof.Machine
end
section
/-! PROOF. Every step keeps the bridge invariant (O13). -/

namespace Sys2Proof.Machine

theorem or_masked {a b m : Half} (ha : a &&& m = 0) (hb : b &&& m = 0) : (a ||| b) &&& m = 0 := by
  rw [BitVec.and_or_distrib_right, ha, hb]
  rfl

theorem bit_masked {p : Bool} {v m : Half} (h : v &&& m = 0) : (if p then v else 0) &&& m = 0 := by
  cases p
  · exact BitVec.zero_and
  · exact h

/-- A polled flag is bit 6 or bit 5 of the pending bitmap (44_cdc_bridge.md R295). -/
theorem pending_masked {b : Half} (h : b &&& 0xFF9F#16 = 0) (o p : Bool) :
    (b ||| (if o then overrunBit else 0) ||| (if p then parityBit else 0)) &&& 0xFF9F#16 = 0 :=
  or_masked (or_masked h (bit_masked (by decide))) (bit_masked (by decide))

/-- The serial state adds DCD and DSR, bits 0 and 1, to the pending bitmap (R290). -/
theorem State.serialState_masked {s : State} (h : s.br.pending &&& 0xFF9F#16 = 0) : s.serialState &&& 0xFF9C#16 = 0 := by
  have hp : s.br.pending &&& 0xFF9C#16 = 0 := by
    rw [show (0xFF9C#16 : Half) = 0xFF9F#16 &&& 0xFF9C#16 by decide, ← BitVec.and_assoc, h]
    rfl
  exact or_masked (or_masked hp (bit_masked (by decide))) (bit_masked (by decide))

section
variable {i : Instr} {s t : State}

theorem BridgeChange.keeps_bridge (h : BridgeChange i s t) (hs : s.BridgeInv) : t.BridgeInv := by
  cases h with
  | filter hi f hf =>
    have := hs.filters
    exact { hs with filters := by simp only [List.length_append, List.length_singleton]; omega }
  | config v hv => exact { hs with config := hv }
  | gather => exact { hs with pending := pending_masked hs.pending _ _ }
  | notified => exact { hs with pending := BitVec.zero_and, lastState := State.serialState_masked hs.pending }
  | batch w z => exact { hs with }
  | clear w z => exact { hs with pending := BitVec.zero_and, lastState := BitVec.zero_and }

theorem Change.keeps_bridge (h : Change i s t) (hs : s.BridgeInv) : t.BridgeInv := by
  cases h with
  | serial h => obtain ⟨_, _, _, _, _, _, _, -, rfl⟩ := h.frame; exact { hs with }
  | endpoint h => obtain ⟨_, _, _, _, _, _, -, rfl⟩ := h.frame; exact { hs with }
  | control hi h => obtain ⟨_, _, _, _, -, -, rfl⟩ := h.frame; exact { hs with }
  | bridge h => exact h.keeps_bridge hs
  | marks f r ib q => exact { hs with }

end

/-- Settles O13: the registers are written with values in range only. -/
theorem bridgeInvKept : Obligations.BridgeInvKept := by
  unfold Obligations.BridgeInvKept
  exact fun s t hs h => step_keeps Change.keeps_bridge hs h

end Sys2Proof.Machine
end

section
/-! PROOF. Which operations can change the coding, the address, STALLED and the filters; the logs only grow (O59). -/

namespace Sys2Proof.Machine

section
variable {i : Instr} {s t : State}

/-- What no elementary change of `i` touches, `i` leaves as it was. -/
theorem Changes.field_kept {α : Type} {f : State → α} (hf : ∀ {s t : State}, Change i s t → f t = f s)
    (h : Changes i s t) : f t = f s := by
  induction h with
  | refl => rfl
  | tail _ hc ih => rw [hf hc, ih]

theorem SerialChange.coding_kept (hi : ¬ SetsCoding i) (hb : i ≠ .evBusReset) (h : SerialChange i s t) :
    t.uart.coding = s.uart.coding := by
  cases h with
  | configure hc => exact absurd hc hi
  | busReset hr => exact absurd hr hb
  | transmit d => rw [State.uartTransmit_fst]; simp only; split <;> rfl
  | txStart => rw [State.txStart_eq]; simp only; split <;> rfl
  | pollRx => rw [State.pollRx_eq]
  | copyRx n => rw [State.uartCopyRx_fst]
  | txDone h =>
    obtain ⟨-, rfl⟩ := State.txDmaDone_eq_ok.1 h
    rw [State.txStart_eq]
    simp only
    split <;> rfl
  | rxByte b => unfold State.rxByte; split <;> rfl
  | abort h => rcases State.abortChunk_eq_ok.1 h with ⟨-, rfl⟩ | ⟨-, -, rfl⟩ <;> rfl
  | _ => rfl

theorem Change.coding_kept (hi : ¬ SetsCoding i) (hb : i ≠ .evBusReset) (h : Change i s t) :
    t.uart.coding = s.uart.coding := by
  cases h with
  | serial h => exact h.coding_kept hi hb
  | endpoint h => obtain ⟨_, _, _, _, _, _, -, rfl⟩ := h.frame; rfl
  | control hi h => obtain ⟨_, _, _, _, -, -, rfl⟩ := h.frame; rfl
  | bridge h => obtain ⟨_, _, _, rfl⟩ := h.frame; rfl
  | marks f r ib q => rfl

theorem CtrlChange.address_kept (hd : i ≠ .evCtrlInDone) (hb : i ≠ .evBusReset) (h : CtrlChange i s t) :
    t.usb.address = s.usb.address := by
  cases h with
  | inDone h => exact absurd h hd
  | busReset h => exact absurd h hb
  | _ => rfl

theorem Change.address_kept (hd : i ≠ .evCtrlInDone) (hb : i ≠ .evBusReset) (h : Change i s t) :
    t.usb.address = s.usb.address := by
  cases h with
  | serial h => obtain ⟨_, _, _, _, _, _, _, -, rfl⟩ := h.frame; rfl
  | endpoint h => obtain ⟨_, _, _, _, _, _, -, rfl⟩ := h.frame; rfl
  | control hi h => exact h.address_kept hd hb
  | bridge h => obtain ⟨_, _, _, rfl⟩ := h.frame; rfl
  | marks f r ib q => rfl

theorem Change.ctrl_kept (hi : ¬ ServesEp0 i) (h : Change i s t) : t.ctrl = s.ctrl := by
  cases h with
  | serial h => obtain ⟨_, _, _, _, _, _, _, -, rfl⟩ := h.frame; rfl
  | endpoint h => obtain ⟨_, _, _, _, _, _, -, rfl⟩ := h.frame; rfl
  | control hc h => exact absurd hc hi
  | bridge h => obtain ⟨_, _, _, rfl⟩ := h.frame; rfl
  | marks f r ib q => rfl

theorem BridgeChange.filters_kept (hi : ¬ SetsFilters i) (h : BridgeChange i s t) : t.filters = s.filters := by
  cases h with
  | filter h => exact absurd h hi
  | _ => rfl

theorem Change.filters_kept (hi : ¬ SetsFilters i) (h : Change i s t) : t.filters = s.filters := by
  cases h with
  | serial h => obtain ⟨_, _, _, _, _, _, _, -, rfl⟩ := h.frame; rfl
  | endpoint h => obtain ⟨_, _, _, _, _, _, -, rfl⟩ := h.frame; rfl
  | control hc h => obtain ⟨_, _, _, _, -, -, rfl⟩ := h.frame; rfl
  | bridge h => exact h.filters_kept hi
  | marks f r ib q => rfl

/-! ## The observation logs (10_state.md R52) -/

/-- The two logs and the stall count of `t` extend those of `s`. -/
structure LogsGrow (s t : State) : Prop where
  wire : s.wireOut <+: t.wireOut
  host : s.hostIn <+: t.hostIn
  stalls : s.stalls ≤ t.stalls

theorem Change.logsGrow (h : Change i s t) : LogsGrow s t := by
  cases h with
  | serial h =>
    obtain ⟨_, _, _, _, _, _, _, hw, rfl⟩ := h.frame
    exact ⟨hw, List.prefix_rfl, le_rfl⟩
  | endpoint h =>
    obtain ⟨_, _, _, _, _, _, hl, rfl⟩ := h.frame
    exact ⟨List.prefix_rfl, hl, le_rfl⟩
  | control hc h =>
    obtain ⟨_, _, _, _, hn, hl, rfl⟩ := h.frame
    exact ⟨List.prefix_rfl, hl, hn⟩
  | bridge h =>
    obtain ⟨_, _, _, rfl⟩ := h.frame
    exact ⟨List.prefix_rfl, List.prefix_rfl, le_rfl⟩
  | marks f r ib q => exact ⟨List.prefix_rfl, List.prefix_rfl, le_rfl⟩

theorem Changes.logsGrow (h : Changes i s t) : LogsGrow s t := by
  induction h with
  | refl => exact ⟨List.prefix_rfl, List.prefix_rfl, le_rfl⟩
  | tail _ hc ih =>
    have hg := hc.logsGrow
    exact ⟨ih.wire.trans hg.wire, ih.host.trans hg.host, ih.stalls.trans hg.stalls⟩

/-! ## The events of endpoint 0 -/

/-- A completed IN packet writes the address only in the status stage of SET_ADDRESS (R246). -/
theorem State.ctrlInDone_address (h : s.ctrlInDone.usb.address ≠ s.usb.address) :
    s.ctrl.state = .STATUS_IN ∧ s.ctrl.onDone = some (.setAddress s.ctrlInDone.usb.address) := by
  unfold State.ctrlInDone at h ⊢
  cases hst : s.ctrl.state with
  | STATUS_IN =>
    simp only [hst, State.emitHost_usb] at h ⊢
    cases hd : s.ctrl.onDone with
    | none => exact absurd rfl (hd ▸ h)
    | some x => cases x; exact ⟨trivial, rfl⟩
  | _ => exact absurd rfl (hst ▸ h)

/-- A completed IN packet is not what ends STALLED. -/
theorem State.ctrlInDone_stalled (h : s.ctrl.state = .STALLED) : s.ctrlInDone.ctrl.state = .STALLED := by
  unfold State.ctrlInDone
  simp [h]

theorem evCtrlInDone_cases (h : exec .evCtrlInDone s = .next t) :
    (s.ctrl.in0 = .LOADED ∧ t = s.ctrlInDone.taken) ∨ (s.ctrl.in0 ≠ .LOADED ∧ t = s.waits) := by
  simp only [exec, execEvCtrlInDone] at h
  split at h <;> cases h
  · exact .inl ⟨‹_›, rfl⟩
  · exact .inr ⟨‹_›, rfl⟩

/-- No OUT packet is accepted while the control machine is STALLED (R233). -/
theorem evCtrlOut_stalled {d : List Byte} (hs : s.ctrl.state = .STALLED) (h : exec (.evCtrlOut d) s = .next t) :
    t = s.waits := by
  simp only [exec, execEvCtrlOut, State.ctrlOutEnabled, hs] at h
  cases h
  rfl

theorem exec_address (h : exec i s = .next t) (ha : t.usb.address ≠ s.usb.address) : i = .evBusReset ∨
    (i = .evCtrlInDone ∧ s.ctrl.state = .STATUS_IN ∧ s.ctrl.onDone = some (.setAddress t.usb.address)) := by
  by_cases hb : i = .evBusReset
  · exact .inl hb
  by_cases hd : i = .evCtrlInDone
  · subst hd
    rcases evCtrlInDone_cases h with ⟨-, rfl⟩ | ⟨-, rfl⟩
    · exact .inr ⟨rfl, State.ctrlInDone_address ha⟩
    · exact absurd rfl ha
  · exact absurd ((exec_changes h).field_kept (Change.address_kept hd hb)) ha

theorem exec_leaves_stalled (h : exec i s = .next t) (hs : s.ctrl.state = .STALLED) (ht : t.ctrl.state ≠ .STALLED) :
    i = .evBusReset ∨ ∃ p, i = .evSetup p := by
  by_cases hi : ServesEp0 i
  · rcases hi with hp | ⟨d, rfl⟩ | rfl | rfl
    · exact .inr hp
    · cases evCtrlOut_stalled hs h
      exact absurd hs ht
    · rcases evCtrlInDone_cases h with ⟨-, rfl⟩ | ⟨-, rfl⟩
      · exact absurd (State.ctrlInDone_stalled hs) ht
      · exact absurd hs ht
    · exact .inl rfl
  · have hk := (exec_changes h).field_kept (Change.ctrl_kept hi)
    exact absurd (hk ▸ hs) ht

end

/-- Settles O59: an elementary change that writes one of these fields names the operations that can make it. -/
theorem onlyTheseOperations : Obligations.OnlyTheseOperations := by
  unfold Obligations.OnlyTheseOperations
  intro i s t h
  have hg := (exec_changes h).logsGrow
  refine ⟨fun hc => ?_, exec_address h, exec_leaves_stalled h, fun hf => ?_, hg.wire, hg.host, hg.stalls⟩
  · by_contra hn
    simp only [not_or] at hn
    obtain ⟨hp, hd, hb⟩ := hn
    exact hc ((exec_changes h).field_kept (Change.coding_kept (not_or.2 ⟨hp, hd⟩) hb))
  · by_contra hn
    exact hf ((exec_changes h).field_kept (Change.filters_kept hn))

end Sys2Proof.Machine
end
section
/-! PROOF. What EP_DECONFIGURE_ALL and a bus reset leave (O45). -/

namespace Sys2Proof.Machine

/-- A bus reset whose abort ends is taken. -/
theorem exec_evBusReset {s u : State} (h : s.abortChunk = .ok u) : exec .evBusReset s = .next u.busRestart.taken := by
  have hr : s.busReset = .ok u.busRestart := State.busReset_eq_ok.2 ⟨u, h, rfl⟩
  simp only [exec, execEvBusReset, hr]
  rfl

/-- Settles O45: the registers are written out; the abort puts the first bytes of the chunk in flight on the wire. -/
theorem deconfigureAndBusReset : Obligations.DeconfigureAndBusReset := by
  unfold Obligations.DeconfigureAndBusReset
  refine ⟨fun s => rfl, fun s hs => ?_⟩
  by_cases hb : s.uart.txBusy = true
  · have hin : s.txrb.tail + s.uart.txChunk ≤ Config.rbCapTx := hs.resolve_left (by simp [hb])
    have hk := s.draw_le s.uart.txChunk
    refine ⟨s.draw s.uart.txChunk, fun h => absurd hb (by simp [h]), hk, ?_⟩
    rw [exec_evBusReset (State.abortChunk_eq_ok.2 (.inr ⟨hb, by omega, rfl⟩)), Memory.readBytes_eq_map, if_pos hb]
    rfl
  · have hb' : s.uart.txBusy = false := by simpa using hb
    refine ⟨0, fun _ => rfl, Nat.zero_le _, ?_⟩
    rw [exec_evBusReset (State.abortChunk_eq_ok.2 (.inl ⟨hb', rfl⟩)), if_neg hb, List.range_zero, List.map_nil,
      List.append_nil]
    rfl

end Sys2Proof.Machine
end

section
/-! SUPPORT. What a packet, a callback and a synchronisation do to one endpoint's invariant (10_state.md R36-R38;
42_endpoint_engine.md R184, R197). -/

namespace Sys2Proof.Machine

/-! ## The order of two slots -/

/-- Two slots, busy as `b` says, are used in turn: packets go in at `n` and are taken out at `o`. -/
def SlotsInTurn (b : Fin 2 → Bool) (o n : Fin 2) : Prop :=
  (o = n → b 0 = b 1) ∧ (o ≠ n → b o = true ∧ b n = false)

/-- A packet goes into the newest slot. -/
theorem SlotsInTurn.fill {b : Fin 2 → Bool} {o n : Fin 2} (h : SlotsInTurn b o n) (hn : b n = false) :
    SlotsInTurn (Function.update b n true) o (n + 1) := by
  revert b o n
  unfold SlotsInTurn
  decide

/-- A packet is taken out of the oldest slot. -/
theorem SlotsInTurn.drain {b : Fin 2 → Bool} {o n : Fin 2} (h : SlotsInTurn b o n) (ho : b o = true) :
    SlotsInTurn (Function.update b o false) (o + 1) n := by
  revert b o n
  unfold SlotsInTurn
  decide

/-- Which slots of an endpoint hold a packet. -/
def Endpoint.busyAt (e : Endpoint) (i : Fin 2) : Bool := (e.slot i).state.busy

theorem Endpoint.busyAt_setSlot (e : Endpoint) (i : Fin 2) (sl : Slot) :
    (e.setSlot i sl).busyAt = Function.update e.busyAt i sl.state.busy := by
  funext j
  by_cases h : j = i
  · subst h
    simp [Endpoint.busyAt]
  · simp [Endpoint.busyAt, Endpoint.slot_setSlot_other e sl h, h]

/-! ## The invariant of one endpoint, slot by slot -/

/-- A slot of an endpoint of direction `d` has a legal state and length, and is HELD only while the endpoint is paused. -/
structure Slot.Ok (d : Dir) (mps : Nat) (paused : Bool) (sl : Slot) : Prop where
  kind : sl.state.legalFor d
  len : sl.len ≤ mps
  held : sl.state = .HELD → paused = true

/-- What holds of a single-buffered endpoint: slot 0 is used, slot 1 is not. -/
structure Endpoint.Single (d : Dir) (e : Endpoint) : Prop where
  hw : e.hwNext = 0
  sw : e.swNext = 0
  state : e.slot1.state = (Slot.reset d).state
  len : e.slot1.len = 0

theorem Endpoint.Inv.slotOk {d : Dir} {e : Endpoint} (h : e.Inv d) (i : Fin 2) : (e.slot i).Ok d e.mps e.paused := by
  unfold Endpoint.slot
  split
  · exact ⟨h.kind0, h.len0, h.held0⟩
  · exact ⟨h.kind1, h.len1, h.held1⟩

theorem Endpoint.Inv.inTurn {d : Dir} {e : Endpoint} (h : e.Inv d) (hd : e.dbl = true) :
    SlotsInTurn e.busyAt (e.oldest d) (e.newest d) := by
  have hs := h.same hd
  have hp := h.split hd
  cases d
  · exact ⟨fun ho => hs ho.symm, fun ho => hp (Ne.symm ho)⟩
  · exact ⟨hs, hp⟩

theorem Endpoint.Inv.isSingle {d : Dir} {e : Endpoint} (h : e.Inv d) (hd : e.dbl = false) : e.Single d := by
  obtain ⟨hw, sw, st, ln⟩ := h.single hd
  exact ⟨hw, sw, st, ln⟩

/-- The invariant of a configured endpoint from what holds of its slots. -/
theorem Endpoint.Inv.of_slots {d : Dir} {e : Endpoint} (hc : e.cfg = true) (hpos : 1 ≤ e.mps) (hle : e.mps ≤ mpsOf e.type)
    (hb : e.dbl = true → e.type = .BULK) (hok : ∀ i, (e.slot i).Ok d e.mps e.paused)
    (hsingle : e.dbl = false → e.Single d) (hturn : e.dbl = true → SlotsInTurn e.busyAt (e.oldest d) (e.newest d))
    (hstat : e.hwstat = e.wantStat) (hsync : e.syncPending = false) (hin : d = .IN → e.paused = false ∧ e.irq = 0) :
    e.Inv d where
  idle h := absurd hc (by simp [h])
  mps_pos _ := hpos
  mps_le := hle
  dbl_bulk := hb
  kind0 := (hok 0).kind
  kind1 := (hok 1).kind
  len0 := (hok 0).len
  len1 := (hok 1).len
  single h := ⟨(hsingle h).hw, (hsingle h).sw, (hsingle h).state, (hsingle h).len⟩
  same hd he := (hturn hd).1 (by cases d; exacts [he.symm, he])
  split hd he := (hturn hd).2 (by cases d; exacts [he.symm, he])
  stat := hstat
  synced := hsync
  held0 := (hok 0).held
  held1 := (hok 1).held
  inOnly := hin

/-! ## A packet in, a packet out -/

/-- `e` after slot `i` was rewritten as `sl`, with new indices and a new count of pending interrupts. -/
def Endpoint.advance (e : Endpoint) (i : Fin 2) (sl : Slot) (hw sw : Fin 2) (q : Nat) : Endpoint :=
  { e.setSlot i sl with hwNext := hw, swNext := sw, irq := q }

theorem Endpoint.advance_rest (e : Endpoint) (i : Fin 2) (sl : Slot) (hw sw : Fin 2) (q : Nat) :
    e.advance i sl hw sw q =
      { e with slot0 := (e.setSlot i sl).slot0, slot1 := (e.setSlot i sl).slot1, hwNext := hw, swNext := sw, irq := q } := by
  unfold Endpoint.advance Endpoint.setSlot
  split <;> rfl

section
variable {d : Dir} {e : Endpoint} {i hw sw : Fin 2} {sl : Slot} {q : Nat}

theorem Endpoint.Inv.advance (h : e.Inv d) (hc : e.cfg = true) (hsl : sl.Ok d e.mps e.paused)
    (hsingle : e.dbl = false → i = 0 ∧ hw = 0 ∧ sw = 0)
    (hturn : e.dbl = true → SlotsInTurn (Function.update e.busyAt i sl.state.busy)
      ((e.advance i sl hw sw q).oldest d) ((e.advance i sl hw sw q).newest d))
    (hq : d = .IN → q = 0) : (e.advance i sl hw sw q).Inv d := by
  have hok : ∀ j, ((e.setSlot i sl).slot j).Ok d e.mps e.paused := by
    intro j
    by_cases hj : j = i
    · subst hj
      rw [Endpoint.slot_setSlot_self]
      exact hsl
    · rw [Endpoint.slot_setSlot_other e sl hj]
      exact h.slotOk j
  have hone : e.dbl = false → i = 0 → (e.setSlot i sl).slot1 = e.slot1 := by
    rintro - rfl
    rfl
  rw [← Endpoint.busyAt_setSlot] at hturn
  rw [Endpoint.advance_rest] at hturn ⊢
  exact Endpoint.Inv.of_slots hc (h.mps_pos hc) h.mps_le h.dbl_bulk hok
    (fun hd => ⟨(hsingle hd).2.1, (hsingle hd).2.2, hone hd (hsingle hd).1 ▸ (h.isSingle hd).state,
      hone hd (hsingle hd).1 ▸ (h.isSingle hd).len⟩)
    hturn h.stat h.synced (fun hi => ⟨(h.inOnly hi).1, hq hi⟩)

/-! ## The four moves of a packet -/

/-- EP_TRANSMIT_PACKET's effect on its endpoint (R174). -/
def Endpoint.afterSubmit (e : Endpoint) (n : Nat) : Endpoint :=
  e.advance e.swIdx { e.slot e.swIdx with len := n, state := .LOADED } e.hwNext (e.succ e.swIdx) e.irq

/-- EV_EP_IN_DONE's effect on its endpoint (R178). -/
def Endpoint.afterSent (e : Endpoint) : Endpoint :=
  e.advance e.hwIdx { e.slot e.hwIdx with state := .EMPTY, len := 0 } (e.succ e.hwIdx) e.swNext e.irq

/-- EV_EP_OUT's effect on its endpoint (R181). -/
def Endpoint.afterLanding (e : Endpoint) (n : Nat) : Endpoint :=
  e.advance e.hwIdx { e.slot e.hwIdx with len := n, state := .FULL } (e.succ e.hwIdx) e.swNext (e.irq + 1)

/-- EP_READ_PACKET's effect on its endpoint (R179, R180). -/
def Endpoint.afterRead (e : Endpoint) : Endpoint :=
  e.advance e.swIdx { e.slot e.swIdx with state := if e.paused then .HELD else .FREE } e.hwNext (e.succ e.swIdx) e.irq

theorem Endpoint.afterSubmit_eq (e : Endpoint) (n : Nat) :
    { e.setSlot e.swIdx { e.slot e.swIdx with len := n, state := .LOADED } with swNext := e.succ e.swIdx } =
      e.afterSubmit n := by
  unfold Endpoint.afterSubmit Endpoint.advance
  rw [Endpoint.setSlot_rest]

theorem Endpoint.afterSent_eq (e : Endpoint) :
    { e.setSlot e.hwIdx { e.slot e.hwIdx with state := .EMPTY, len := 0 } with hwNext := e.succ e.hwIdx } =
      e.afterSent := by
  unfold Endpoint.afterSent Endpoint.advance
  rw [Endpoint.setSlot_rest]

theorem Endpoint.afterLanding_eq (e : Endpoint) (n : Nat) :
    { e.setSlot e.hwIdx { e.slot e.hwIdx with len := n, state := .FULL } with
      hwNext := e.succ e.hwIdx, irq := e.irq + 1 } = e.afterLanding n := by
  unfold Endpoint.afterLanding Endpoint.advance
  rw [Endpoint.setSlot_rest]

theorem Endpoint.afterRead_eq (e : Endpoint) :
    { e.setSlot e.swIdx { e.slot e.swIdx with state := if e.paused then .HELD else .FREE } with
      swNext := e.succ e.swIdx } = e.afterRead := by
  unfold Endpoint.afterRead Endpoint.advance
  rw [Endpoint.setSlot_rest]

theorem Endpoint.wrap_single (hd : e.dbl = false) (i : Fin 2) : e.wrap i = 0 ∧ e.succ i = 0 := by
  simp [Endpoint.wrap, Endpoint.succ, hd]

theorem Endpoint.wrap_double (hd : e.dbl = true) (i : Fin 2) : e.wrap i = i ∧ e.succ i = i + 1 := by
  simp [Endpoint.wrap, Endpoint.succ, hd]

/-- While fewer than `K` packets wait for the host, the slot software writes next is empty. -/
theorem Endpoint.Inv.next_empty (h : e.Inv .IN) (hd : e.dbl = true) (hf : e.inFlight ≠ e.K) :
    e.busyAt e.swNext = false := by
  have ht := h.inTurn hd
  by_cases ho : e.hwNext = e.swNext
  · have hsame : e.slot0.state.busy = e.slot1.state.busy := ht.1 ho
    have hk0 := h.kind0
    have hk1 := h.kind1
    have hnot : ¬ (e.slot0.state = .LOADED ∧ e.slot1.state = .LOADED) := by
      rintro ⟨h0, h1⟩
      exact hf (by simp [Endpoint.inFlight, Endpoint.count, Endpoint.K, hd, h0, h1])
    have hidle : e.slot0.state.busy = false ∧ e.slot1.state.busy = false := by
      rcases hk0 with h0 | h0 <;> rcases hk1 with h1 | h1 <;> simp_all [SlotState.busy]
    unfold Endpoint.busyAt Endpoint.slot
    split
    · exact hidle.1
    · exact hidle.2
  · exact (ht.2 ho).2

theorem Endpoint.Inv.submit {n : Nat} (h : e.Inv .IN) (hc : e.cfg = true) (hf : e.inFlight ≠ e.K) (hn : n ≤ e.mps) :
    (e.afterSubmit n).Inv .IN := by
  refine h.advance hc ⟨.inr rfl, hn, by simp⟩ (fun hd => ?_) (fun hd => ?_) (fun hi => (h.inOnly hi).2)
  · exact ⟨(Endpoint.wrap_single hd _).1, (h.isSingle hd).hw, (Endpoint.wrap_single hd _).2⟩
  · have hf := (h.inTurn hd).fill (h.next_empty hd hf)
    simp only [Endpoint.swIdx, Endpoint.wrap_double hd]
    exact hf

theorem Endpoint.Inv.sent (h : e.Inv .IN) (hc : e.cfg = true) (hl : (e.slot e.hwIdx).state = .LOADED) :
    e.afterSent.Inv .IN := by
  refine h.advance hc ⟨.inl rfl, Nat.zero_le _, by simp⟩ (fun hd => ?_) (fun hd => ?_) (fun hi => (h.inOnly hi).2)
  · exact ⟨(Endpoint.wrap_single hd _).1, (Endpoint.wrap_single hd _).2, (h.isSingle hd).sw⟩
  · have hb : e.busyAt e.hwNext = true := by
      rw [Endpoint.hwIdx, (Endpoint.wrap_double hd _).1] at hl
      simp [Endpoint.busyAt, hl, SlotState.busy]
    have hf := (h.inTurn hd).drain hb
    simp only [Endpoint.hwIdx, Endpoint.wrap_double hd]
    exact hf

theorem Endpoint.Inv.landing {n : Nat} (h : e.Inv .OUT) (hc : e.cfg = true) (hl : (e.slot e.hwIdx).state = .FREE)
    (hn : n ≤ e.mps) : (e.afterLanding n).Inv .OUT := by
  refine h.advance hc ⟨.inr (.inl rfl), hn, by simp⟩ (fun hd => ?_) (fun hd => ?_) (fun hi => nomatch hi)
  · exact ⟨(Endpoint.wrap_single hd _).1, (Endpoint.wrap_single hd _).2, (h.isSingle hd).sw⟩
  · have hb : e.busyAt e.hwNext = false := by
      rw [Endpoint.hwIdx, (Endpoint.wrap_double hd _).1] at hl
      simp [Endpoint.busyAt, hl, SlotState.busy]
    have hf := (h.inTurn hd).fill hb
    simp only [Endpoint.hwIdx, Endpoint.wrap_double hd]
    exact hf

theorem Endpoint.Inv.read (h : e.Inv .OUT) (hc : e.cfg = true) (hl : (e.slot e.swIdx).state = .FULL) :
    e.afterRead.Inv .OUT := by
  have hok := h.slotOk e.swIdx
  refine h.advance hc ⟨?_, hok.len, ?_⟩ (fun hd => ?_) (fun hd => ?_) (fun hi => nomatch hi)
  · cases hp : e.paused
    · exact .inl rfl
    · exact .inr (.inr rfl)
  · cases hp : e.paused <;> simp
  · exact ⟨(Endpoint.wrap_single hd _).1, (h.isSingle hd).hw, (Endpoint.wrap_single hd _).2⟩
  · have hb : e.busyAt e.swNext = true := by
      rw [Endpoint.swIdx, (Endpoint.wrap_double hd _).1] at hl
      simp [Endpoint.busyAt, hl, SlotState.busy]
    have hidle : (if e.paused then SlotState.HELD else SlotState.FREE).busy = false := by cases e.paused <;> rfl
    have hf := (h.inTurn hd).drain hb
    simp only [Endpoint.swIdx, Endpoint.wrap_double hd, hidle]
    exact hf

/-- A callback takes its interrupt. -/
theorem Endpoint.Inv.setIrq (h : e.Inv .OUT) (hc : e.cfg = true) (q : Nat) : ({ e with irq := q } : Endpoint).Inv .OUT :=
  { h with
    idle := fun hi => absurd hc (by simp [show e.cfg = false from hi])
    inOnly := fun hi => nomatch hi }

/-! ## Synchronisation (R184) -/

theorem Slot.release_ok {m : Nat} {p : Bool} (h : sl.Ok d m p) : sl.release.Ok d m false := by
  by_cases hs : sl.state = .HELD
  · rw [Slot.release_held hs]
    have hk := h.kind
    rw [hs] at hk
    cases d
    · exact ⟨.inl rfl, h.len, by simp⟩
    · rcases hk with hk | hk <;> cases hk
  · rw [Slot.release_other hs]
    exact ⟨h.kind, h.len, fun hh => absurd hh hs⟩

theorem Slot.release_busy (sl : Slot) : sl.release.state.busy = sl.state.busy := by
  by_cases hs : sl.state = .HELD
  · simp [hs, SlotState.busy]
  · rw [Slot.release_other hs]

/-- An unused slot 1 is never HELD, so releasing it changes nothing. -/
theorem Endpoint.Inv.release_slot1 (h : e.Inv d) (hd : e.dbl = false) : e.slot1.release = e.slot1 := by
  refine Slot.release_other ?_
  rw [(h.isSingle hd).state]
  cases d <;> decide

/-- `sync` of an endpoint that is not paused releases both slots. -/
theorem Endpoint.Inv.sync_released (h : e.Inv d) (b : Bool) : ({ e with paused := false, halt := b } : Endpoint).sync =
    { e with
      paused := false, halt := b, slot0 := e.slot0.release, slot1 := e.slot1.release, syncPending := false
      hwstat := ({ e with paused := false, halt := b } : Endpoint).wantStat } := by
  cases hd : e.dbl with
  | false => rw [h.release_slot1 hd]; simp [Endpoint.sync]
  | true => simp [Endpoint.sync]

/-- A synchronisation after pausing, unpausing, halting or clearing a halt. -/
theorem Endpoint.Inv.sync (h : e.Inv d) (hc : e.cfg = true) (p b : Bool) (hp : d = .IN → p = false) :
    ({ e with paused := p, halt := b } : Endpoint).sync.Inv d := by
  cases p with
  | true =>
    exact Endpoint.Inv.of_slots hc (h.mps_pos hc) h.mps_le h.dbl_bulk
      (fun i => ⟨(h.slotOk i).kind, (h.slotOk i).len, fun _ => rfl⟩) (fun hd => { h.isSingle hd with }) h.inTurn rfl rfl
      (fun hi => absurd (hp hi) (by decide))
  | false =>
    rw [h.sync_released b]
    refine Endpoint.Inv.of_slots hc (h.mps_pos hc) h.mps_le h.dbl_bulk (fun i => ?_) (fun hd => ?_) (fun hd => ?_) rfl rfl
      (fun hi => ⟨rfl, (h.inOnly hi).2⟩)
    · unfold Endpoint.slot
      split
      · exact Slot.release_ok (h.slotOk 0)
      · exact Slot.release_ok (h.slotOk 1)
    · have h1 := h.release_slot1 hd
      have hs := h.isSingle hd
      exact ⟨hs.hw, hs.sw, by simp only [h1]; exact hs.state, by simp only [h1]; exact hs.len⟩
    · have hb : ∀ f : Endpoint, f.slot0 = e.slot0.release → f.slot1 = e.slot1.release → f.busyAt = e.busyAt := by
        intro f h0 h1
        funext j
        unfold Endpoint.busyAt Endpoint.slot
        split
        · rw [h0, Slot.release_busy]
        · rw [h1, Slot.release_busy]
      rw [hb _ rfl rfl]
      exact h.inTurn hd

/-! ## Configuration -/

theorem Endpoint.inv_reset (d : Dir) : (Endpoint.reset d).Inv d := by
  cases d <;> constructor <;> simp [Endpoint.reset, Slot.reset, SlotState.legalFor, Endpoint.wantStat]

theorem mpsOf_pos (ty : EpType) : 1 ≤ mpsOf ty := by cases ty <;> decide

theorem freshSlot_ok (d : Dir) (off m : Nat) (p : Bool) : (freshSlot d off).Ok d m p := by
  cases d
  · exact ⟨.inl rfl, Nat.zero_le _, fun h => nomatch h⟩
  · exact ⟨.inl rfl, Nat.zero_le _, fun h => nomatch h⟩

theorem freshSlot_len (d : Dir) (off : Nat) : (freshSlot d off).len = 0 := by cases d <;> rfl

theorem Endpoint.inv_setUp (e : Endpoint) (a : EpAddr) (b : Nat) {n : Nat} (ty : EpType) (hn : n ≠ 0) :
    (e.setUp a b n ty).Inv a.dir := by
  have hm := mpsOf_pos ty
  refine Endpoint.Inv.of_slots rfl (Nat.le_min.2 ⟨by omega, hm⟩) (Nat.min_le_right _ _) (fun hd => ?_) (fun i => ?_)
    (fun hd => ⟨rfl, rfl, rfl, freshSlot_len _ _⟩) (fun hd => ?_) rfl rfl (fun _ => ⟨rfl, rfl⟩)
  · exact (of_decide_eq_true (show setupDbl n ty = true from hd)).1
  · unfold Endpoint.slot
    split
    · exact freshSlot_ok _ _ _ _
    · exact freshSlot_ok _ _ _ _
  · refine ⟨fun _ => rfl, fun hne => absurd ?_ hne⟩
    cases a.dir <;> rfl

end

end Sys2Proof.Machine
end

section
/-! PROOF. Every step keeps the endpoints' invariant and the bound on pending interrupts (O11). -/

namespace Sys2Proof.Machine

/-! ## What a step can do to one configured endpoint -/

/-- A callback's effect on its endpoint after it has taken its interrupt (42_endpoint_engine.md R190): nothing, or the packet
read, and then perhaps the pause changed and the endpoint synchronised. -/
inductive CallbackMove (e : Endpoint) : Endpoint → Prop where
  | idle : CallbackMove e e
  | read (hf : (e.slot e.swIdx).state = .FULL) : CallbackMove e e.afterRead
  | readPause (hf : (e.slot e.swIdx).state = .FULL) (p : Bool) :
      CallbackMove e ({ e.afterRead with paused := p } : Endpoint).sync

/-- What one elementary change can do to a configured endpoint of direction `d` that stays configured as it is. -/
inductive EpMove (d : Dir) (e : Endpoint) : Endpoint → Prop where
  | submit (n : Nat) (hd : d = .IN) (hf : e.inFlight ≠ e.K) (hn : n ≤ e.mps) : EpMove d e (e.afterSubmit n)
  | sent (hl : (e.slot e.hwIdx).state = .LOADED) : EpMove d e e.afterSent
  | landing (n : Nat) (hl : (e.slot e.hwIdx).state = .FREE) (hn : n ≤ e.mps) : EpMove d e (e.afterLanding n)
  | sync (p b : Bool) (hp : d = .OUT ∨ p = e.paused) : EpMove d e ({ e with paused := p, halt := b } : Endpoint).sync
  | callback {r : Endpoint} (hq : 0 < e.irq) (hm : CallbackMove { e with irq := e.irq - 1 } r) : EpMove d e r

/-- The two endpoints are configured alike: type, sizes, handler, and where their slots lie. -/
structure Endpoint.SameLayout (e r : Endpoint) : Prop where
  cfg : r.cfg = e.cfg
  type : r.type = e.type
  mps : r.mps = e.mps
  dbl : r.dbl = e.dbl
  handler : r.handler = e.handler
  pma0 : r.slot0.pma = e.slot0.pma
  pma1 : r.slot1.pma = e.slot1.pma

section
variable {d : Dir} {e r r' : Endpoint}

theorem Endpoint.SameLayout.trans (h : e.SameLayout r) (h' : r.SameLayout r') : e.SameLayout r' :=
  ⟨h'.cfg.trans h.cfg, h'.type.trans h.type, h'.mps.trans h.mps, h'.dbl.trans h.dbl, h'.handler.trans h.handler,
    h'.pma0.trans h.pma0, h'.pma1.trans h.pma1⟩

/-- A slot rewritten at its own offset. -/
theorem Endpoint.sameLayout_advance {i hw sw : Fin 2} {sl : Slot} {q : Nat} (hp : sl.pma = (e.slot i).pma) :
    e.SameLayout (e.advance i sl hw sw q) := by
  unfold Endpoint.advance Endpoint.setSlot
  unfold Endpoint.slot at hp
  split
  · rename_i hi
    rw [if_pos hi] at hp
    exact ⟨rfl, rfl, rfl, rfl, rfl, hp, rfl⟩
  · rename_i hi
    rw [if_neg hi] at hp
    exact ⟨rfl, rfl, rfl, rfl, rfl, rfl, hp⟩

theorem Slot.release_pma (sl : Slot) : sl.release.pma = sl.pma := by
  unfold Slot.release
  split <;> rfl

theorem Endpoint.sameLayout_sync (e : Endpoint) : e.SameLayout e.sync := by
  unfold Endpoint.sync
  split
  · exact ⟨rfl, rfl, rfl, rfl, rfl, rfl, rfl⟩
  · refine ⟨rfl, rfl, rfl, rfl, rfl, Slot.release_pma _, ?_⟩
    simp only
    split
    · exact Slot.release_pma _
    · rfl

theorem CallbackMove.sameLayout (h : CallbackMove e r) : e.SameLayout r := by
  have hr : e.SameLayout e.afterRead := Endpoint.sameLayout_advance rfl
  cases h with
  | idle => exact ⟨rfl, rfl, rfl, rfl, rfl, rfl, rfl⟩
  | read hf => exact hr
  | readPause hf p => exact hr.trans { Endpoint.sameLayout_sync { e.afterRead with paused := p } with }

theorem EpMove.sameLayout (h : EpMove d e r) : e.SameLayout r := by
  cases h with
  | submit n hd hf hn => exact Endpoint.sameLayout_advance rfl
  | sent hl => exact Endpoint.sameLayout_advance rfl
  | landing n hl hn => exact Endpoint.sameLayout_advance rfl
  | sync p b hp => exact { Endpoint.sameLayout_sync { e with paused := p, halt := b } with }
  | callback hq hm => exact { hm.sameLayout with }

/-! ### The invariant -/

theorem Endpoint.Inv.dir_of_loaded {i : Fin 2} (h : e.Inv d) (hl : (e.slot i).state = .LOADED) : d = .IN := by
  have hk := (h.slotOk i).kind
  rw [hl] at hk
  cases d
  · rcases hk with hk | hk | hk <;> cases hk
  · rfl

theorem Endpoint.Inv.dir_of_free {i : Fin 2} (h : e.Inv d) (hl : (e.slot i).state = .FREE) : d = .OUT := by
  have hk := (h.slotOk i).kind
  rw [hl] at hk
  cases d
  · rfl
  · rcases hk with hk | hk <;> cases hk

theorem Endpoint.Inv.dir_of_irq (h : e.Inv d) (hq : 0 < e.irq) : d = .OUT := by
  cases d
  · rfl
  · have := (h.inOnly rfl).2
    omega

theorem CallbackMove.inv (h : CallbackMove e r) (he : e.Inv .OUT) (hc : e.cfg = true) : r.Inv .OUT := by
  cases h with
  | idle => exact he
  | read hf => exact he.read hc hf
  | readPause hf p =>
    have hr := he.read hc hf
    have hrc : e.afterRead.cfg = true := by rw [(CallbackMove.read hf).sameLayout.cfg, hc]
    exact hr.sync hrc p e.afterRead.halt (fun hi => nomatch hi)

theorem EpMove.inv (h : EpMove d e r) (he : e.Inv d) (hc : e.cfg = true) : r.Inv d := by
  cases h with
  | submit n hd hf hn => subst hd; exact he.submit hc hf hn
  | sent hl => cases he.dir_of_loaded hl; exact he.sent hc hl
  | landing n hl hn => cases he.dir_of_free hl; exact he.landing hc hl hn
  | sync p b hp =>
    refine he.sync hc p b fun hi => ?_
    rcases hp with hp | hp
    · exact absurd (hi.symm.trans hp) (by decide)
    · rw [hp, (he.inOnly hi).1]
  | callback hq hm => cases he.dir_of_irq hq; exact hm.inv (he.setIrq hc _) hc

/-! ### Pending interrupts and landed packets -/

/-- Rewriting one of the `K` slots counts it out with its old state and in with its new one. -/
theorem Endpoint.count_advance {i hw sw : Fin 2} {sl : Slot} {q : Nat} (st : SlotState) (hi : e.hasSlot i) :
    (e.advance i sl hw sw q).count st + (if (e.slot i).state = st then 1 else 0) =
      e.count st + (if sl.state = st then 1 else 0) := by
  unfold Endpoint.advance Endpoint.count Endpoint.setSlot Endpoint.slot
  by_cases h0 : i = 0
  · simp only [h0, if_true]
    omega
  · have hd : e.dbl = true := hi.resolve_left h0
    simp only [h0, if_false, hd, true_and]
    omega

theorem Endpoint.hasSlot_wrap (e : Endpoint) (i : Fin 2) : e.hasSlot (e.wrap i) := by
  unfold Endpoint.wrap Endpoint.hasSlot
  cases e.dbl <;> simp

theorem Slot.release_full (sl : Slot) : sl.release.state = .FULL ↔ sl.state = .FULL := by
  by_cases hs : sl.state = .HELD
  · simp [hs]
  · rw [Slot.release_other hs]

theorem Endpoint.landed_sync (e : Endpoint) : e.sync.landed = e.landed := by
  unfold Endpoint.sync Endpoint.landed Endpoint.count
  cases e.paused with
  | true => rfl
  | false => cases hd : e.dbl <;> simp [Slot.release_full]

@[simp] theorem Endpoint.sync_irq (e : Endpoint) : e.sync.irq = e.irq := by
  unfold Endpoint.sync
  split <;> rfl

/-- A packet read is one landed packet less. -/
theorem Endpoint.landed_afterRead (hf : (e.slot e.swIdx).state = .FULL) : e.afterRead.landed + 1 = e.landed := by
  have hc := e.count_advance (i := e.swIdx) (hw := e.hwNext) (sw := e.succ e.swIdx) (q := e.irq) .FULL
    (sl := { e.slot e.swIdx with state := if e.paused then .HELD else .FREE }) (e.hasSlot_wrap _)
  have hn : (if e.paused then SlotState.HELD else SlotState.FREE) ≠ .FULL := by cases e.paused <;> decide
  rw [if_pos hf, if_neg hn] at hc
  exact hc

theorem CallbackMove.irq_le (h : CallbackMove e r) (he : e.irq + 1 ≤ e.landed) : r.irq ≤ r.landed := by
  cases h with
  | idle => omega
  | read hf =>
    have := Endpoint.landed_afterRead hf
    show e.irq ≤ _
    omega
  | readPause hf p =>
    have := Endpoint.landed_afterRead hf
    rw [Endpoint.landed_sync, Endpoint.sync_irq]
    show e.irq ≤ e.afterRead.landed
    omega

theorem EpMove.irq_le (h : EpMove .OUT e r) (he : e.irq ≤ e.landed) : r.irq ≤ r.landed := by
  cases h with
  | submit n hd hf hn => cases hd
  | sent hl =>
    have hc := e.count_advance (i := e.hwIdx) (hw := e.succ e.hwIdx) (sw := e.swNext) (q := e.irq) .FULL
      (sl := { e.slot e.hwIdx with state := .EMPTY, len := 0 }) (e.hasSlot_wrap _)
    simp only [hl, reduceCtorEq, if_false] at hc
    exact he.trans hc.ge
  | landing n hl hn =>
    have hc := e.count_advance (i := e.hwIdx) (hw := e.succ e.hwIdx) (sw := e.swNext) (q := e.irq + 1) .FULL
      (sl := { e.slot e.hwIdx with len := n, state := .FULL }) (e.hasSlot_wrap _)
    simp only [hl, reduceCtorEq, if_false, if_true] at hc
    exact (Nat.succ_le_succ he).trans hc.ge
  | sync p b hp =>
    rw [Endpoint.landed_sync, Endpoint.sync_irq]
    exact he
  | callback hq hm => exact hm.irq_le (by show e.irq - 1 + 1 ≤ e.landed; omega)

theorem Endpoint.landed_le (e : Endpoint) : e.landed ≤ 2 := by
  unfold Endpoint.landed Endpoint.count
  split_ifs <;> omega

end

/-! ## What a step can do to the endpoints -/

/-- `t` has `r` as the endpoint `a`, every other endpoint as `s` has it, and allocation and callback unchanged. -/
structure State.EpUpdated (s t : State) (a : EpAddr) (r : Endpoint) : Prop where
  here : t.ep a = r
  others : ∀ b, b ≠ a → t.ep b = s.ep b
  callback : t.usb.inCallback = s.usb.inCallback
  pmaNext : t.usb.pmaNext = s.usb.pmaNext

section
variable {s t u : State} {a : EpAddr} {r r' : Endpoint}

theorem State.EpUpdated.trans (h : s.EpUpdated t a r) (h' : t.EpUpdated u a r') : s.EpUpdated u a r' :=
  ⟨h'.here, fun b hb => (h'.others b hb).trans (h.others b hb), h'.callback.trans h.callback, h'.pmaNext.trans h.pmaNext⟩

theorem State.EpUpdated.refl (s : State) (a : EpAddr) : s.EpUpdated s a (s.ep a) := ⟨rfl, fun _ _ => rfl, rfl, rfl⟩

theorem State.EpUpdated.setEp (ha : a.num.val ≠ 0) (r : Endpoint) (ho : t.epOut = s.epOut := by rfl)
    (hi : t.epIn = s.epIn := by rfl) (hu : t.usb = s.usb := by rfl) : s.EpUpdated (t.setEp a r) a r where
  here := State.ep_setEp_self t r ha
  others b hb := (State.ep_setEp_other t r hb).trans (State.ep_congr ho hi b)
  callback := by rw [State.setEp_usb, hu]
  pmaNext := by rw [State.setEp_usb, hu]

theorem State.EpUpdated.uartTransmit (s : State) (a : EpAddr) (d : List Byte) :
    s.EpUpdated (s.uartTransmit d).1 a (s.ep a) := by
  rw [State.uartTransmit_fst]
  exact ⟨State.ep_congr rfl rfl a, fun b _ => State.ep_congr rfl rfl b, rfl, rfl⟩

/-! ### The callback -/

/-- The deferred synchronisations reach exactly the endpoints that wait for one (R190). -/
theorem State.ep_syncAllPending (s : State) (a : EpAddr) :
    s.syncAllPending.ep a = if (s.ep a).syncPending then (s.ep a).sync else s.ep a := by
  by_cases h : a.num.val = 0
  · rw [State.ep_zero h, State.ep_zero h]
    rfl
  · exact State.ep_mapEps s _ h

/-- Whether a synchronisation was pending does not matter to it. -/
theorem Endpoint.sync_of_pending (e : Endpoint) (b : Bool) : ({ e with syncPending := b } : Endpoint).sync = e.sync := by
  by_cases h : e.paused = true <;> simp [Endpoint.sync, Endpoint.wantStat, h]

theorem Endpoint.afterRead_syncPending (e : Endpoint) : e.afterRead.syncPending = e.syncPending := by
  unfold Endpoint.afterRead
  rw [Endpoint.advance_rest]

/-- `update_pause` inside the callback of the bulk OUT endpoint leaves its synchronisation for later (R191). -/
theorem State.updatePause_inCallback (hc : s.usb.inCallback = some Config.epBulkOut) (h : s.updatePause = .ok t) :
    t = s ∨ ∃ p, t = s.setEp Config.epBulkOut { s.ep Config.epBulkOut with paused := p, syncPending := true } := by
  rcases State.updatePause_cases h with h | ⟨-, -, h⟩ | ⟨-, -, h⟩
  · exact .inl h
  · rw [State.syncOrDefer_eq, if_pos hc] at h
    exact .inr ⟨true, h⟩
  · rw [State.syncOrDefer_eq, if_pos hc] at h
    exact .inr ⟨false, h⟩

/-- The bulk OUT handler, run in its endpoint's callback: what it leaves there, once the endpoint is synchronised. -/
theorem State.onUsbDataReceived_move (hp : (s.ep Config.epBulkOut).syncPending = false)
    (h : s.onUsbDataReceived = .ok t) :
    ∃ r, s.EpUpdated t Config.epBulkOut r ∧
      CallbackMove (s.ep Config.epBulkOut) (if r.syncPending then r.sync else r) := by
  have hn : Config.epBulkOut.num.val ≠ 0 := by decide
  rcases State.onUsbDataReceived_eq_ok h with hr | ⟨v, b, hr, hu⟩
  · obtain ⟨-, -, -, ⟨-, rfl, -⟩ | ⟨-, -, -, -, hr⟩⟩ := State.epReadPacket_eq_ok.1 hr
    · exact ⟨_, .refl _ _, by rw [hp]; exact .idle⟩
    · cases hr
  obtain ⟨-, -, hc, ⟨-, -, hr⟩ | ⟨hf, -, -, rfl, -⟩⟩ := State.epReadPacket_eq_ok.1 hr
  · cases hr
  rw [Endpoint.afterRead_eq] at hu
  have hread : s.EpUpdated (s.setEp Config.epBulkOut (s.ep Config.epBulkOut).afterRead) Config.epBulkOut
      (s.ep Config.epBulkOut).afterRead := .setEp hn _
  have hsent := hread.trans (hread.here ▸ State.EpUpdated.uartTransmit _ Config.epBulkOut b)
  rcases State.updatePause_inCallback (hsent.callback.trans hc) hu with rfl | ⟨p, rfl⟩
  · exact ⟨_, hsent, by rw [Endpoint.afterRead_syncPending, hp]; exact .read hf⟩
  · refine ⟨_, hsent.trans (.setEp hn _), ?_⟩
    rw [if_pos rfl, hsent.here]
    exact (Endpoint.sync_of_pending { (s.ep Config.epBulkOut).afterRead with paused := p } true) ▸ .readPause hf p

/-- A completion callback, run to its end, moves its own endpoint only. -/
theorem State.EndpointInv.usbIrq_move (hs : s.EndpointInv) (he : (s.ep a).irqEnabled = true) (h : s.usbIrq a = .ok u) :
    ∃ r, EpMove a.dir (s.ep a) r ∧ s.EpUpdated u a r := by
  obtain ⟨hc, hq⟩ : (s.ep a).cfg = true ∧ 0 < (s.ep a).irq := by simpa [Endpoint.irqEnabled] using he
  have h1 : s.EpUpdated (s.setEp a { s.ep a with irq := (s.ep a).irq - 1 }) a { s.ep a with irq := (s.ep a).irq - 1 } :=
    .setEp (State.num_ne_zero_of_cfg hc) _
  obtain ⟨w, hw, rfl⟩ := State.dispatchCompletion_eq_ok.1 h
  generalize s.setEp a { s.ep a with irq := (s.ep a).irq - 1 } = s1 at h1 hw
  have hin : (s1.enterCallback a).ep a = { s.ep a with irq := (s.ep a).irq - 1 } := h1.here
  have hrun : ∃ r, (s1.enterCallback a).EpUpdated w a r ∧
      CallbackMove ((s1.enterCallback a).ep a) (if r.syncPending then r.sync else r) := by
    have hp : ((s1.enterCallback a).ep a).syncPending = false := by rw [hin]; exact (hs.eps a).synced
    rw [show (s1.ep a).handler = handlerFor a by rw [h1.here]; exact hs.handler a hc] at hw
    unfold handlerFor at hw
    split at hw
    · rename_i ha
      subst ha
      exact State.onUsbDataReceived_move hp hw
    · cases hw
      exact ⟨_, .refl _ _, by rw [hp]; exact .idle⟩
  obtain ⟨r, hr, hm⟩ := hrun
  refine ⟨_, .callback hq (hin ▸ hm), ?_, fun b hb => ?_, hs.callback.symm, hr.pmaNext.trans h1.pmaNext⟩
  · rw [State.ep_syncAllPending]
    exact hr.here ▸ rfl
  · have hother : w.leaveCallback.ep b = s.ep b := (hr.others b hb).trans (h1.others b hb)
    rw [State.ep_syncAllPending, hother, (hs.eps b).synced]
    rfl

/-! ### Every change -/

theorem State.EpUpdated.syncOrDefer (hs : s.EndpointInv) (hc : (s.ep a).cfg = true) (e : Endpoint) :
    s.EpUpdated (s.syncOrDefer a e) a e.sync := by
  rw [State.syncOrDefer_eq, if_neg (by rw [hs.callback]; simp)]
  exact .setEp (State.num_ne_zero_of_cfg hc) _

/-- Between two steps, a change of the endpoints is nothing, a move of one configured endpoint, EP_SETUP, or the
deconfiguration of all. -/
theorem State.EndpointInv.epChange_cases (hs : s.EndpointInv) (h : EpChange s t) :
    t = s ∨ (∃ a r, (s.ep a).cfg = true ∧ EpMove a.dir (s.ep a) r ∧ s.EpUpdated t a r) ∨
    (∃ a n ty, s.epSetup a n ty = .ok t) ∨ t = s.deconfigureAll := by
  cases h with
  | setUp h => exact .inr (.inr (.inl ⟨_, _, _, h⟩))
  | @transmit a d t c h =>
    obtain ⟨hd, hc, hl, ⟨-, rfl, -⟩ | ⟨hf, -, rfl, -⟩⟩ := State.epTransmit_eq_ok.1 h
    · exact .inl rfl
    · rw [Endpoint.afterSubmit_eq]
      exact .inr (.inl ⟨a, _, hc, .submit _ hd hf hl, .setEp (State.num_ne_zero_of_cfg hc) _⟩)
  | read h =>
    obtain ⟨-, -, hc, -⟩ := State.epReadPacket_eq_ok.1 h
    rw [hs.callback] at hc
    cases hc
  | pause a p hd hc =>
    exact .inr (.inl ⟨a, _, hc, .sync p (s.ep a).halt (.inl hd), .syncOrDefer hs hc _⟩)
  | halt a b hc =>
    exact .inr (.inl ⟨a, _, hc, .sync (s.ep a).paused b (.inr rfl), .syncOrDefer hs hc _⟩)
  | @inDone a t he h =>
    obtain ⟨⟨hc, -⟩, hl⟩ : ((s.ep a).cfg = true ∧ (s.ep a).hwstat = .VALID) ∧
        ((s.ep a).slot (s.ep a).hwIdx).state = .LOADED := by simpa [Endpoint.inDoneEnabled] using he
    obtain ⟨-, rfl⟩ := State.epInDone_eq_ok.1 h
    rw [Endpoint.afterSent_eq]
    exact .inr (.inl ⟨a, _, hc, .sent hl, .setEp (State.num_ne_zero_of_cfg hc) _⟩)
  | @outPacket a d t he h =>
    obtain ⟨⟨⟨hc, -⟩, hl⟩, hn⟩ : (((s.ep a).cfg = true ∧ (s.ep a).hwstat = .VALID) ∧
        ((s.ep a).slot (s.ep a).hwIdx).state = .FREE) ∧ d.length ≤ (s.ep a).mps := by
      simpa [Endpoint.outEnabled] using he
    obtain ⟨-, rfl⟩ := State.epOutPacket_eq_ok.1 h
    rw [Endpoint.afterLanding_eq]
    exact .inr (.inl ⟨a, _, hc, .landing _ hl hn, .setEp (State.num_ne_zero_of_cfg hc) _⟩)
  | @callback a u he h =>
    obtain ⟨r, hm, hu⟩ := hs.usbIrq_move he h
    have hc : (s.ep a).cfg = true := (Bool.and_eq_true_iff.1 he).1
    have hep : ∀ b, (s.withEps u).ep b = u.ep b := fun b => State.ep_congr rfl rfl b
    exact .inr (.inl ⟨a, r, hc, hm, (hep a).trans hu.here, fun b hb => (hep b).trans (hu.others b hb), hu.callback, rfl⟩)
  | deconfigure => exact .inr (.inr (.inr rfl))

/-- What the invariant says of the endpoint `a`, packet memory being allocated up to `next`. -/
structure Endpoint.Placed (a : EpAddr) (next : Nat) (e : Endpoint) : Prop where
  inv : e.Inv a.dir
  handler : e.cfg = true → e.handler = handlerFor a
  slot0 : e.cfg = true → pmaFirst ≤ e.slot0.pma ∧ e.slot0.pma + e.mps ≤ next
  slot1 : e.cfg = true → e.dbl = true → pmaFirst ≤ e.slot1.pma ∧ e.slot1.pma + e.mps ≤ next

theorem State.EndpointInv.placed (hs : s.EndpointInv) (a : EpAddr) : (s.ep a).Placed a s.usb.pmaNext :=
  ⟨hs.eps a, hs.handler a, hs.slot0 a, hs.slot1 a⟩

theorem State.EndpointInv.of_placed (h : ∀ a, (s.ep a).Placed a s.usb.pmaNext) (hc : s.usb.inCallback = none)
    (hlo : pmaFirst ≤ s.usb.pmaNext) (hhi : s.usb.pmaNext ≤ Config.pmaBytes) : s.EndpointInv :=
  ⟨fun a => (h a).inv, fun a => (h a).handler, hc, hlo, hhi, fun a => (h a).slot0, fun a => (h a).slot1⟩

/-- Allocating more packet memory moves no slot. -/
theorem Endpoint.Placed.mono {m n : Nat} (h : r.Placed a m) (hmn : m ≤ n) : r.Placed a n where
  inv := h.inv
  handler := h.handler
  slot0 hc := ⟨(h.slot0 hc).1, (h.slot0 hc).2.trans hmn⟩
  slot1 hc hd := ⟨(h.slot1 hc hd).1, (h.slot1 hc hd).2.trans hmn⟩

theorem Endpoint.Placed.move {n : Nat} (h : r.Placed a n) (hc : r.cfg = true) (hm : EpMove a.dir r r') :
    r'.Placed a n := by
  have hl := hm.sameLayout
  refine ⟨hm.inv h.inv hc, fun _ => hl.handler.trans (h.handler hc), fun _ => ?_, fun _ hd => ?_⟩
  · rw [hl.pma0, hl.mps]
    exact h.slot0 hc
  · rw [hl.pma1, hl.mps]
    exact h.slot1 hc (hl.dbl ▸ hd)

/-- EP_SETUP places the endpoint's slots between the old allocation mark and the new one (R173). -/
theorem Endpoint.placed_setUp (e : Endpoint) (a : EpAddr) {base n : Nat} (ty : EpType) (hn : n ≠ 0)
    (hb : pmaFirst ≤ base) : (e.setUp a base n ty).Placed a (setupFinal base n ty) := by
  have hslot : min n (mpsOf ty) ≤ setupSlotBytes n ty := Nat.le_add_right _ _
  refine ⟨Endpoint.inv_setUp e a base ty hn, fun _ => rfl, fun _ => ⟨hb, ?_⟩, fun _ hd => ?_⟩
  · show base + min n (mpsOf ty) ≤ setupFinal base n ty
    unfold setupFinal
    split <;> omega
  · replace hd : setupDbl n ty = true := hd
    have hpma : (e.setUp a base n ty).slot1.pma = base + setupSlotBytes n ty := if_pos hd
    have hfin : setupFinal base n ty = base + 2 * setupSlotBytes n ty := by rw [setupFinal, if_pos hd]
    rw [hpma, hfin]
    show _ ∧ base + setupSlotBytes n ty + min n (mpsOf ty) ≤ _
    omega

theorem Endpoint.placed_reset (a : EpAddr) (n : Nat) : (Endpoint.reset a.dir).Placed a n where
  inv := Endpoint.inv_reset a.dir
  handler hc := absurd hc Bool.false_ne_true
  slot0 hc := absurd hc Bool.false_ne_true
  slot1 hc := absurd hc Bool.false_ne_true

theorem State.EndpointInv.move (hs : s.EndpointInv) (hc : (s.ep a).cfg = true) (hm : EpMove a.dir (s.ep a) r)
    (h : s.EpUpdated t a r) : t.EndpointInv := by
  refine .of_placed (fun b => ?_) (h.callback.trans hs.callback) (h.pmaNext ▸ hs.pma_lo) (h.pmaNext ▸ hs.pma_hi)
  rw [h.pmaNext]
  by_cases hb : b = a
  · subst hb
    rw [h.here]
    exact (hs.placed b).move hc hm
  · rw [h.others b hb]
    exact hs.placed b

/-- EP_SETUP allocates above the mark, so the endpoints configured before keep their slots below it. -/
theorem State.EndpointInv.setUp {n : Nat} {ty : EpType} (hs : s.EndpointInv) (h : s.epSetup a n ty = .ok t) :
    t.EndpointInv := by
  obtain ⟨ha, hn, hfit, rfl⟩ := State.epSetup_eq_ok.1 h
  have hgrow : s.usb.pmaNext ≤ setupFinal s.usb.pmaNext n ty := Nat.le_add_right _ _
  refine .of_placed (fun b => ?_) ?_ ?_ ?_ <;> rw [State.setEp_usb]
  · by_cases hb : b = a
    · subst hb
      rw [State.ep_setEp_self _ _ ha]
      exact Endpoint.placed_setUp _ b ty hn hs.pma_lo
    · rw [State.ep_setEp_other _ _ hb]
      exact (hs.placed b).mono hgrow
  · exact hs.callback
  · exact hs.pma_lo.trans hgrow
  · exact hfit

theorem State.endpointInv_deconfigureAll (s : State) : s.deconfigureAll.EndpointInv := by
  refine .of_placed (fun a => ?_) rfl le_rfl (by show pmaFirst ≤ Config.pmaBytes; decide)
  rw [State.ep_deconfigureAll]
  exact Endpoint.placed_reset a _

theorem State.EndpointInv.congr (hs : s.EndpointInv) (hep : ∀ a, t.ep a = s.ep a)
    (hc : t.usb.inCallback = s.usb.inCallback) (hp : t.usb.pmaNext = s.usb.pmaNext) : t.EndpointInv := by
  refine .of_placed (fun a => ?_) (hc.trans hs.callback) (hp ▸ hs.pma_lo) (hp ▸ hs.pma_hi)
  rw [hep, hp]
  exact hs.placed a

variable {i : Instr}

/-- A change of another part of the state leaves every endpoint, the callback and the allocation mark. -/
theorem Change.endpoints_kept (h : Change i s t) : EpChange s t ∨
    ((∀ a, t.ep a = s.ep a) ∧ t.usb.inCallback = s.usb.inCallback ∧ t.usb.pmaNext = s.usb.pmaNext) := by
  cases h with
  | serial h => obtain ⟨_, _, _, _, _, _, _, -, rfl⟩ := h.frame; exact .inr ⟨State.ep_congr rfl rfl, rfl, rfl⟩
  | endpoint h => exact .inl h
  | control hi h => obtain ⟨_, _, _, _, -, -, rfl⟩ := h.frame; exact .inr ⟨State.ep_congr rfl rfl, rfl, rfl⟩
  | bridge h => obtain ⟨_, _, _, rfl⟩ := h.frame; exact .inr ⟨State.ep_congr rfl rfl, rfl, rfl⟩
  | marks f r ib q => exact .inr ⟨State.ep_congr rfl rfl, rfl, rfl⟩

theorem Change.keeps_endpoints (h : Change i s t) (hs : s.EndpointInv) : t.EndpointInv := by
  rcases h.endpoints_kept with h | ⟨hep, hc, hp⟩
  · rcases hs.epChange_cases h with rfl | ⟨a, r, hc, hm, hu⟩ | ⟨a, n, ty, hset⟩ | rfl
    · exact hs
    · exact hs.move hc hm hu
    · exact hs.setUp hset
    · exact s.endpointInv_deconfigureAll
  · exact hs.congr hep hc hp

/-! ## Pending interrupts -/

theorem Change.keeps_irqBound (h : Change i s t) (hs : s.EndpointInv) (hb : s.IrqBound) : t.IrqBound := by
  intro n
  rcases h.endpoints_kept with h | ⟨hep, -, -⟩
  · rcases hs.epChange_cases h with rfl | ⟨a, r, -, hm, hu⟩ | ⟨a, m, ty, hset⟩ | rfl
    · exact hb n
    · by_cases ha : (⟨.OUT, n⟩ : EpAddr) = a
      · subst ha
        rw [hu.here]
        exact hm.irq_le (hb n)
      · rw [hu.others _ ha]
        exact hb n
    · obtain ⟨ha, -, -, rfl⟩ := State.epSetup_eq_ok.1 hset
      by_cases hn : (⟨.OUT, n⟩ : EpAddr) = a
      · subst hn
        rw [State.ep_setEp_self _ _ ha]
        exact Nat.zero_le _
      · rw [State.ep_setEp_other _ _ hn]
        exact hb n
    · rw [State.ep_deconfigureAll]
      exact Nat.zero_le _
  · rw [hep]
    exact hb n

end

/-- Settles O11: between two steps no callback runs and nothing is pending, so each change is a move of one endpoint, an
EP_SETUP or the deconfiguration of all. -/
theorem endpointInvKept : Obligations.EndpointInvKept := by
  unfold Obligations.EndpointInvKept
  refine ⟨fun s t hs h => step_keeps Change.keeps_endpoints hs h, fun s t hs hb h => ?_,
    fun s n hb => (hb n).trans (Endpoint.landed_le _)⟩
  have hboth := step_keeps (P := fun s => s.EndpointInv ∧ s.IrqBound)
    (fun hc hp => ⟨hc.keeps_endpoints hp.1, hc.keeps_irqBound hp.1 hp.2⟩) ⟨hs, hb⟩ h
  exact hboth.2

end Sys2Proof.Machine
end

section
/-! PROOF. From a state that keeps the invariants, no operation forms an address outside a storage space (O7). -/

namespace Sys2Proof.Machine

/-! ## Ending inside the storage spaces -/

/-- The operation ends, or is the firmware's misuse: it forms no address outside a storage space (20_memory.md R60). -/
def StaysInside {α : Type} (r : Except Stop α) : Prop := ∀ sp, r ≠ .error (.outside sp)

section
variable {α β : Type} {r : Except Stop α}

theorem StaysInside.ok (v : α) : StaysInside (.ok v) := fun _ h => nomatch h

theorem StaysInside.misuse (c : FaultCode) : StaysInside (.error (.misuse c) : Except Stop α) := fun _ h => nomatch h

theorem StaysInside.of_eq_ok {v : α} (h : r = .ok v) : StaysInside r := h ▸ .ok v

/-- An operation that stops where a sub-operation does. -/
theorem StaysInside.of_error {x : Stop} (h : StaysInside r) (hr : r = .error x) :
    StaysInside (.error x : Except Stop β) := by
  intro sp hx
  cases hx
  exact h sp hr

theorem StaysInside.map (h : StaysInside r) (f : α → β) : StaysInside (r.map f) :=
  fun sp hr => h sp (except_map_eq_error.1 hr)

theorem StaysInside.bind {f : α → Except Stop β} (h : StaysInside r) (hf : ∀ v, r = .ok v → StaysInside (f v)) :
    StaysInside (r >>= f) := by
  cases r with
  | error x => exact h.of_error rfl
  | ok v => exact hf v rfl

end

section
variable {i : Instr} {s t : State} {a : EpAddr}

/-! ## The UART's operations -/

/-- The chunk in flight is contiguous data, so it ends inside the TX ring (41_uart_engine.md R139). -/
theorem State.SerialInv.chunk_fits (hs : s.SerialInv) : s.txrb.tail + s.uart.txChunk ≤ Config.rbCapTx := by
  have hcap := hs.txrb_cap
  have hhead := hs.txrb.head_lt
  have htail := hs.txrb.tail_lt
  have hchunk := hs.chunk
  unfold Ring.contig at hchunk
  split at hchunk <;> omega

theorem State.abortChunk_inside (hs : s.SerialInv) : StaysInside s.abortChunk := by
  obtain ⟨t, ht⟩ := s.abortChunk_ok fun _ => hs.chunk_fits
  exact .of_eq_ok ht

theorem State.uartEnable_inside (hs : s.SerialInv) : StaysInside s.uartEnable := (State.abortChunk_inside hs).map _

theorem State.busReset_inside (hs : s.SerialInv) : StaysInside s.busReset := (State.abortChunk_inside hs).map _

theorem State.txDmaDone_inside (hs : s.SerialInv) : StaysInside s.txDmaDone :=
  .of_eq_ok (State.txDmaDone_eq_ok.2 ⟨hs.chunk_fits, rfl⟩)

/-! ## The endpoints' operations -/

theorem State.epFor_inside (s : State) (d : Dir) (a : EpAddr) : StaysInside (s.epFor d a) := by
  unfold State.epFor
  split
  · exact .ok _
  · exact .misuse _

theorem State.epAny_inside (s : State) (a : EpAddr) : StaysInside (s.epAny a) := by
  unfold State.epAny
  split
  · exact .ok _
  · exact .misuse _

theorem State.epSetup_inside (s : State) (a : EpAddr) (n : Nat) (ty : EpType) : StaysInside (s.epSetup a n ty) := by
  unfold State.epSetup
  split
  · exact .misuse _
  split
  · exact .misuse _
  split
  · exact .misuse _
  · exact .ok _

/-- The slots of a configured endpoint lie inside packet memory (42_endpoint_engine.md R173). -/
theorem State.EndpointInv.slot_fits {k : Fin 2} (hs : s.EndpointInv) (hc : (s.ep a).cfg = true)
    (hk : (s.ep a).hasSlot k) : ((s.ep a).slot k).pma + (s.ep a).mps ≤ Config.pmaBytes := by
  have hhi := hs.pma_hi
  unfold Endpoint.slot
  split
  · have := (hs.slot0 a hc).2
    omega
  · rename_i h0
    have := (hs.slot1 a hc (hk.resolve_left h0)).2
    omega

/-- The packets in the slots of an endpoint lie inside packet memory. -/
def Endpoint.PacketsFit (e : Endpoint) : Prop :=
  e.cfg = true → ∀ k, e.hasSlot k → (e.slot k).pma + (e.slot k).len ≤ Config.pmaBytes

theorem State.EndpointInv.packetsFit (hs : s.EndpointInv) (a : EpAddr) : (s.ep a).PacketsFit := fun hc k hk =>
  (Nat.add_le_add_left ((hs.eps a).slotOk k).len _).trans (hs.slot_fits hc hk)

theorem State.epTransmit_inside (hs : s.EndpointInv) (a : EpAddr) (d : List Byte) : StaysInside (s.epTransmit a d) := by
  unfold State.epTransmit
  split
  · rename_i x hx
    exact (s.epFor_inside .IN a).of_error hx
  · rename_i e he
    obtain ⟨-, hc, rfl⟩ := State.epFor_eq_ok.1 he
    split
    · exact .misuse _
    rename_i hl
    split
    · exact .ok _
    · have hslot := hs.slot_fits hc ((s.ep a).hasSlot_wrap (s.ep a).swNext)
      have hfit : ((s.ep a).slot (s.ep a).swIdx).pma + d.length ≤ Space.pma.size :=
        (Nat.add_le_add_left (Nat.le_of_not_lt hl) _).trans hslot
      simp only [checkSpace_eq_ok.2 hfit]
      exact .ok _

theorem State.epReadPacket_inside (h : (s.ep a).PacketsFit) (n : Nat) : StaysInside (s.epReadPacket a n) := by
  unfold State.epReadPacket
  split
  · rename_i x hx
    exact (s.epFor_inside .OUT a).of_error hx
  · rename_i e he
    obtain ⟨-, hc, rfl⟩ := State.epFor_eq_ok.1 he
    split
    · exact .misuse _
    simp only
    split
    · exact .ok _
    split
    · exact .misuse _
    · rw [checkSpace_eq_ok.2 (h hc _ ((s.ep a).hasSlot_wrap (s.ep a).swNext))]
      exact .ok _

theorem State.epInDone_inside (hs : s.EndpointInv) (he : (s.ep a).inDoneEnabled = true) :
    StaysInside (s.epInDone a) := by
  obtain ⟨⟨hc, -⟩, -⟩ : ((s.ep a).cfg = true ∧ (s.ep a).hwstat = .VALID) ∧
      ((s.ep a).slot (s.ep a).hwIdx).state = .LOADED := by simpa [Endpoint.inDoneEnabled] using he
  exact .of_eq_ok (State.epInDone_eq_ok.2 ⟨hs.packetsFit a hc _ ((s.ep a).hasSlot_wrap _), rfl⟩)

theorem State.epOutPacket_inside {d : List Byte} (hs : s.EndpointInv) (he : (s.ep a).outEnabled d.length = true) :
    StaysInside (s.epOutPacket a d) := by
  obtain ⟨⟨⟨hc, -⟩, -⟩, hn⟩ : (((s.ep a).cfg = true ∧ (s.ep a).hwstat = .VALID) ∧
      ((s.ep a).slot (s.ep a).hwIdx).state = .FREE) ∧ d.length ≤ (s.ep a).mps := by
    simpa [Endpoint.outEnabled] using he
  have hslot := hs.slot_fits hc ((s.ep a).hasSlot_wrap (s.ep a).hwNext)
  exact .of_eq_ok (State.epOutPacket_eq_ok.2 ⟨(Nat.add_le_add_left hn _).trans hslot, rfl⟩)

/-! ## The bulk-OUT callback -/

theorem State.updatePause_inside (s : State) : StaysInside s.updatePause := by
  unfold State.updatePause
  simp only
  split
  · exact .ok _
  split
  · exact (s.epFor_inside .OUT _).map _
  split
  · exact (s.epFor_inside .OUT _).map _
  · exact .ok _

theorem State.onUsbDataReceived_inside (h : (s.ep Config.epBulkOut).PacketsFit) : StaysInside s.onUsbDataReceived := by
  unfold State.onUsbDataReceived
  split
  · rename_i x hx
    exact (State.epReadPacket_inside h _).of_error hx
  · exact .ok _
  · exact State.updatePause_inside _

/-- A callback begins with the endpoints of the state between two steps, an interrupt less; their slots have not moved. -/
theorem State.usbIrq_inside (hs : s.EndpointInv) (hc : (s.ep a).cfg = true) : StaysInside (s.usbIrq a) := by
  have hu : s.EpUpdated (s.setEp a { s.ep a with irq := (s.ep a).irq - 1 }) a { s.ep a with irq := (s.ep a).irq - 1 } :=
    .setEp (State.num_ne_zero_of_cfg hc) _
  have hfit : ∀ b, ((s.setEp a { s.ep a with irq := (s.ep a).irq - 1 }).ep b).PacketsFit := by
    intro b
    by_cases hb : b = a
    · subst hb
      rw [hu.here]
      exact hs.packetsFit b
    · rw [hu.others b hb]
      exact hs.packetsFit b
  unfold State.usbIrq State.dispatchCompletion
  generalize s.setEp a { s.ep a with irq := (s.ep a).irq - 1 } = s1 at hfit ⊢
  refine StaysInside.map ?_ _
  unfold State.runEpHandler
  split
  · exact .ok _
  · exact State.onUsbDataReceived_inside (s := s1.enterCallback a) (hfit Config.epBulkOut)

/-! ## The poll -/

theorem Changes.keeps_endpoints (h : Changes i s t) (hs : s.EndpointInv) : t.EndpointInv :=
  h.keeps Change.keeps_endpoints hs

theorem State.notify_inside (hs : s.EndpointInv) : StaysInside s.notify := by
  unfold State.notify
  simp only
  split
  · split
    · rename_i x hx
      exact (State.epTransmit_inside hs _ _).of_error hx
    · exact .ok _
    · exact .ok _
  · exact .ok _

/-- Each packet sent leaves the endpoints' invariant to the next. -/
theorem State.sendPackets_inside (mps n : Nat) : ∀ {s : State} (left lastk : Nat), s.EndpointInv →
    StaysInside (s.sendPackets mps n left lastk) := by
  induction n with
  | zero => exact fun _ _ _ => .ok _
  | succ n ih =>
    intro s left lastk hs
    have hcopy : (s.uartCopyRx (min mps left)).1.EndpointInv :=
      (SerialChange.copyRx (i := .uartPoll) _).changes.keeps_endpoints hs
    unfold State.sendPackets
    split
    · exact .ok _
    simp only
    split
    · rename_i x hx
      exact (State.epTransmit_inside hcopy _ _).of_error hx
    · rename_i t c ht
      exact ih _ _ ((EpChange.transmit ht).changes (i := .uartPoll).keeps_endpoints hcopy)

theorem State.rxToUsb_inside (hs : s.EndpointInv) (now : Word) : StaysInside (s.rxToUsb now) := by
  unfold State.rxToUsb
  simp only
  split
  · exact .ok _
  split
  · split
    · exact (State.epTransmit_inside hs _ _).map _
    · exact .ok _
  split
  · exact .ok _
  split
  · exact .ok _
  split
  · exact .ok _
  · exact (State.sendPackets_inside _ _ _ _ hs).map _

theorem State.bridgePoll_inside (hs : s.EndpointInv) (now : Word) : StaysInside (s.bridgePoll now) := by
  have h1 : Changes (.bridgePoll now) s s.uartPoll.gatherFlags :=
    s.uartPoll_changes.trans (State.gatherFlags_changes _)
  have hs1 := Changes.keeps_endpoints h1 hs
  unfold State.bridgePoll
  simp only
  split
  · exact .ok _
  refine (State.updatePause_inside _).bind fun s2 h2 => ?_
  have hs2 := (State.updatePause_changes (i := .bridgePoll now) h2).keeps_endpoints hs1
  refine (State.notify_inside hs2).bind fun s3 h3 => ?_
  have hs3 := (State.notify_changes (i := .bridgePoll now) h3).keeps_endpoints hs2
  exact State.rxToUsb_inside hs3 now

theorem State.registerFilter_inside (s : State) (f : Filter) : StaysInside (s.registerFilter f) := by
  unfold State.registerFilter
  split
  · exact .misuse _
  · exact .ok _

/-! ## Control transfers -/

/-- EP_SETUP leaves the chunk that UART_ENABLE may then abort. -/
theorem State.SerialInv.epSetup {n : Nat} {ty : EpType} (hs : s.SerialInv) (h : s.epSetup a n ty = .ok t) :
    t.SerialInv := Change.keeps_serial (i := .evSetup []) (.endpoint (.setUp h)) hs

theorem State.setConfig_inside (hs : s.SerialInv) : StaysInside s.setConfig := by
  unfold State.setConfig
  refine (State.epSetup_inside _ _ _ _).bind fun s1 h1 => ?_
  refine (State.epSetup_inside _ _ _ _).bind fun s2 h2 => ?_
  refine (State.epSetup_inside _ _ _ _).bind fun s3 h3 => ?_
  have hs3 := ((hs.epSetup h1).epSetup h2).epSetup h3
  exact (State.uartEnable_inside hs3).bind fun s4 _ => .ok _

theorem State.setConfiguration_inside (hs : s.SerialInv) (req : Request) : StaysInside (s.setConfiguration req) := by
  unfold State.setConfiguration
  simp only
  split
  · exact .ok _
  split
  · refine (State.setConfig_inside ?_).map _
    exact { hs with }
  · exact .ok _

theorem State.epFeature_inside (s : State) (set : Bool) (req : Request) : StaysInside (s.epFeature set req) := by
  unfold State.epFeature
  split
  · exact .ok _
  split
  · exact .ok _
  · refine StaysInside.map ?_ _
    split
    · exact (s.epAny_inside _).map _
    · exact (s.epAny_inside _).map _
  · exact .ok _

/-- Of the standard requests, only the two halt features and SET_CONFIGURATION can stop. -/
theorem State.standard_inside (hs : s.SerialInv) (req : Request) : StaysInside (s.standard req) := by
  unfold State.standard
  split
  · exact .ok _
  split
  case h_4 => exact s.epFeature_inside false req
  case h_5 => exact s.epFeature_inside true req
  case h_10 => exact State.setConfiguration_inside hs req
  all_goals exact .ok _

theorem State.serveRequest_inside (hs : s.SerialInv) (data : List Byte) : StaysInside (s.serveRequest data) := by
  refine StaysInside.map ?_ _
  rw [State.dispatchRequest_eq]
  split
  · exact .ok _
  · exact State.standard_inside hs _

theorem State.setupPacket_inside (hs : s.SerialInv) (p : List Byte) : StaysInside (s.setupPacket p) := by
  unfold State.setupPacket
  simp only
  split
  · split
    · exact .ok _
    · exact .ok _
  · refine State.serveRequest_inside ?_ _
    exact { hs with }

theorem State.ctrlOutData_inside (hs : s.SerialInv) (hcap : s.ctrl.length ≤ Config.ctrlBufCap) (d : List Byte) :
    StaysInside (s.ctrlOutData d) := by
  unfold State.ctrlOutData
  split
  · exact .ok _
  rename_i hl
  have hfit : s.ctrl.cursor + d.length ≤ Space.cbuf.size := (Nat.le_of_not_lt hl).trans hcap
  simp only [checkSpace_eq_ok.2 hfit]
  split
  · refine State.serveRequest_inside ?_ _
    exact { hs with }
  split
  · exact .ok _
  · exact .ok _

theorem State.ctrlOut_inside (hs : s.SerialInv) (hc : s.ControlInv) (d : List Byte) : StaysInside (s.ctrlOut d) := by
  unfold State.ctrlOut
  split
  case h_1 hst => exact State.ctrlOutData_inside hs (hc.out_cap (.inl hst)) d
  case h_2 hst => exact State.ctrlOutData_inside hs (hc.out_cap (.inr hst)) d
  all_goals exact .ok _

/-! ## Every operation -/

/-- An operation that stays inside concludes in a next state. -/
theorem State.conclude_next (s : State) {r : Except Stop State} (h : StaysInside r) : ∃ t, s.conclude r = .next t := by
  rcases r with (c | sp) | t
  · exact ⟨_, s.conclude_misuse c⟩
  · exact absurd rfl (h sp)
  · exact ⟨t, s.conclude_ok t⟩

/-- An endpoint command gives a next state when it does so for every endpoint. -/
theorem State.withEp_next {f : EpAddr → Host.Outcome State Fault Refusal} (s : State) (op addr : Byte)
    (hf : ∀ a, ∃ t, f a = .next t) : ∃ t, s.withEp op addr f = .next t := by
  unfold State.withEp
  split
  · exact hf _
  · exact ⟨_, rfl⟩

/-- A command gives a next state, its own or that of its refusal. -/
theorem ite_next (b : Bool) (t u : State) :
    ∃ v, (if b then .next t else .next u : Host.Outcome State Fault Refusal) = .next v := by
  cases b
  · exact ⟨u, rfl⟩
  · exact ⟨t, rfl⟩

/-- An event gives a next state: its operation's when it is enabled, else that of its waiting agent. -/
theorem event_next {b : Bool} {o : Host.Outcome State Fault Refusal} (s : State) (h : b = true → ∃ t, o = .next t) :
    ∃ t, (if b then o else .next s.waits) = .next t := by
  cases b
  · exact ⟨s.waits, rfl⟩
  · exact h rfl

theorem exec_next (hs : s.Inv) (i : Instr) : ∃ t, exec i s = .next t := by
  have hserial := hs.serial
  have heps := hs.endpoints
  cases i with
  | rbClear ring => exact ite_next _ _ _
  | rbEnqueue ring data => exact ite_next _ _ _
  | rbDequeue ring limit => exact ite_next _ _ _
  | rbAvailableSpace ring => exact ite_next _ _ _
  | rbOccupiedLen ring => exact ite_next _ _ _
  | rbContigLen ring => exact ite_next _ _ _
  | uartConfigure coding => exact ⟨_, rfl⟩
  | uartEnable => exact s.conclude_next ((State.uartEnable_inside hserial).map _)
  | uartTransmit data => exact ⟨_, rfl⟩
  | uartPoll => exact ⟨_, rfl⟩
  | uartCopyRx limit => exact ⟨_, rfl⟩
  | uartHasOverrun => exact ⟨_, rfl⟩
  | uartGetDsr => exact ⟨_, rfl⟩
  | uartGetDcd => exact ⟨_, rfl⟩
  | uartSetDtr arg => exact ite_next _ _ _
  | uartTxSpace => exact ⟨_, rfl⟩
  | uartRxLen => exact ⟨_, rfl⟩
  | uartGetCoding => exact ⟨_, rfl⟩
  | evUartTxDmaDone => exact event_next s fun _ => s.conclude_next ((State.txDmaDone_inside hserial).map _)
  | evUartRxByte arg => exact ite_next _ _ _
  | evUartParityError => exact ⟨_, rfl⟩
  | evPinLevels arg => exact ite_next _ _ _
  | epSetup addr size type =>
    refine s.withEp_next 0x30 addr fun a => ?_
    split
    · exact s.conclude_next ((s.epSetup_inside _ _ _).map _)
    · exact ⟨_, rfl⟩
  | epTransmitPacket addr data =>
    exact s.withEp_next 0x31 addr fun a => s.conclude_next ((State.epTransmit_inside heps a data).map _)
  | epWriteAvail addr =>
    exact s.withEp_next 0x32 addr fun a => s.conclude_next (((s.epFor_inside .IN a).map _).map _)
  | epReadPacket addr limit =>
    exact s.withEp_next 0x33 addr fun a => s.conclude_next ((State.epReadPacket_inside (heps.packetsFit a) _).map _)
  | epPause addr =>
    exact s.withEp_next 0x34 addr fun a => s.conclude_next (((s.epFor_inside .OUT a).map _).map _)
  | epUnpause addr =>
    exact s.withEp_next 0x35 addr fun a => s.conclude_next (((s.epFor_inside .OUT a).map _).map _)
  | epSetHalt addr => exact s.withEp_next 0x36 addr fun a => s.conclude_next (((s.epAny_inside a).map _).map _)
  | epClearHalt addr => exact s.withEp_next 0x37 addr fun a => s.conclude_next (((s.epAny_inside a).map _).map _)
  | evBusReset => exact s.conclude_next ((State.busReset_inside hserial).map _)
  | evEpInDone addr =>
    exact s.withEp_next 0x39 addr fun a => event_next s fun he =>
      s.conclude_next ((State.epInDone_inside heps he).map _)
  | evEpOut addr data =>
    exact s.withEp_next 0x3A addr fun a => event_next s fun he =>
      s.conclude_next ((State.epOutPacket_inside heps he).map _)
  | epDeconfigureAll => exact ⟨_, rfl⟩
  | epReadStatus sel =>
    simp only [exec, execEpReadStatus]
    split
    · exact ⟨_, rfl⟩
    · exact ⟨_, rfl⟩
  | evUsbIrq addr =>
    exact s.withEp_next 0x3D addr fun a => event_next s fun he =>
      s.conclude_next ((State.usbIrq_inside heps (Bool.and_eq_true_iff.1 he).1).map _)
  | evSetup packet => exact s.conclude_next ((State.setupPacket_inside hserial packet).map _)
  | evCtrlOut data =>
    exact event_next s fun _ => s.conclude_next ((State.ctrlOut_inside hserial hs.control data).map _)
  | evCtrlInDone =>
    simp only [exec, execEvCtrlInDone]
    split
    · exact ⟨_, rfl⟩
    · exact ⟨_, rfl⟩
  | ctrlRegisterFilter handler value mask =>
    simp only [exec, execCtrlRegisterFilter]
    split
    · exact s.conclude_next ((s.registerFilter_inside _).map _)
    · exact ⟨_, rfl⟩
  | ctrlReadState => exact ⟨_, rfl⟩
  | bridgePoll now => exact s.conclude_next ((State.bridgePoll_inside heps now).map _)
  | bridgeInit => exact s.conclude_next (((s.registerFilter_inside cdcFilter).map _).map _)

end

/-- Settles O7: each address an operation checks lies inside its space, by the invariant of the register or slot it comes
from. -/
theorem everyOperationSteps : Obligations.EveryOperationSteps := by
  unfold Obligations.EveryOperationSteps
  exact fun i s hs => exec_next hs i

end Sys2Proof.Machine
end

section
/-! PROOF. Each ring index has its one writer, apart from the operations that restart the rings (O21). -/

namespace Sys2Proof.Machine

/-! ## The indices and their writers -/

/-- The ring indices (20_memory.md R70), and the standalone ring's. -/
inductive RingIndex where
  | txTail
  | txHead
  | rxDma
  | rxTail
  | rb0Head
  | rb0Tail

/-- The value of a ring index. -/
def State.ringIndex (s : State) : RingIndex → Nat
  | .txTail => s.txrb.tail
  | .txHead => s.txrb.head
  | .rxDma => s.rx.dmaRem
  | .rxTail => s.rx.tail
  | .rb0Head => s.rb0.head
  | .rb0Tail => s.rb0.tail

/-- The operations that may write an index (20_memory.md R70; 70_reset_and_hazards.md R358). -/
def MayWrite (i : Instr) : RingIndex → Prop
  | .txTail => i = .evUartTxDmaDone ∨ Restarts i
  | .txHead => (∃ d, i = .uartTransmit d) ∨ (∃ a, i = .evUsbIrq a) ∨ Restarts i
  | .rxDma => (∃ b, i = .evUartRxByte b) ∨ Restarts i
  | .rxTail => i = .uartPoll ∨ (∃ n, i = .uartCopyRx n) ∨ (∃ n, i = .bridgePoll n) ∨ Restarts i
  | .rb0Head => (∃ r d, i = .rbEnqueue r d) ∨ (∃ r, i = .rbClear r) ∨ i = .evBusReset
  | .rb0Tail => (∃ r n, i = .rbDequeue r n) ∨ (∃ r, i = .rbClear r) ∨ i = .evBusReset

/-- Between `s` and `t` only indices that `i` may write have moved. -/
def MovesOwn (i : Instr) (s t : State) : Prop := ∀ x, t.ringIndex x = s.ringIndex x ∨ MayWrite i x

section
variable {i : Instr} {s t u : State}

theorem MovesOwn.refl (s : State) : MovesOwn i s s := fun _ => .inl rfl

theorem MovesOwn.trans (h : MovesOwn i s t) (h' : MovesOwn i t u) : MovesOwn i s u := fun x =>
  (h' x).elim (fun e' => (h x).imp_left e'.trans) .inr

/-- Where the standalone ring, the TX ring and the RX window are kept, no index moves. -/
theorem MovesOwn.of_kept (h0 : t.rb0 = s.rb0) (ht : t.txrb = s.txrb) (hr : t.rx = s.rx) : MovesOwn i s t := by
  intro x
  left
  cases x <;> simp only [State.ringIndex, h0, ht, hr]

theorem MovesOwn.answer (h : MovesOwn i s t) (c : ResultCode) (v : Value) : MovesOwn i s (t.answer c v) :=
  h.trans (.of_kept rfl rfl rfl)

theorem MovesOwn.taken (h : MovesOwn i s t) : MovesOwn i s t.taken := h.trans (.of_kept rfl rfl rfl)

/-- An operation that may restart the rings owns all indices but the standalone ring's. -/
theorem MovesOwn.of_restarts (hi : Restarts i) (h0 : t.rb0 = s.rb0) : MovesOwn i s t
  | .txTail => .inr (.inr hi)
  | .txHead => .inr (.inr (.inr hi))
  | .rxDma => .inr (.inr hi)
  | .rxTail => .inr (.inr (.inr (.inr hi)))
  | .rb0Head => .inl (congrArg Ring.head h0)
  | .rb0Tail => .inl (congrArg Ring.tail h0)

/-- A bus reset owns every index. -/
theorem MovesOwn.of_busReset (s t : State) : MovesOwn .evBusReset s t
  | .txTail => .inr (.inr (.inr (.inl rfl)))
  | .txHead => .inr (.inr (.inr (.inr (.inl rfl))))
  | .rxDma => .inr (.inr (.inr (.inl rfl)))
  | .rxTail => .inr (.inr (.inr (.inr (.inr (.inl rfl)))))
  | .rb0Head => .inr (.inr (.inr rfl))
  | .rb0Tail => .inr (.inr (.inr rfl))

/-! ## Changes that move no index -/

theorem EpChange.moves (h : EpChange s t) : MovesOwn i s t := by
  obtain ⟨_, _, _, _, _, _, -, rfl⟩ := h.frame
  exact .of_kept rfl rfl rfl

theorem EpsOnly.moves (h : EpsOnly s t) : MovesOwn i s t := by
  rw [h]
  exact .of_kept rfl rfl rfl

theorem CtrlChange.moves (h : CtrlChange i s t) : MovesOwn i s t := by
  obtain ⟨_, _, _, _, -, -, rfl⟩ := h.frame
  exact .of_kept rfl rfl rfl

/-- A pause, an unpause or a halt command changes its endpoint. -/
theorem State.syncOrDefer_moves {a : EpAddr} {r : Except Stop Endpoint} {f : Endpoint → Endpoint}
    (h : (r.map fun e => s.syncOrDefer a (f e)) = .ok t) : MovesOwn i s t := by
  obtain ⟨e, -, rfl⟩ := except_map_eq_ok.1 h
  rw [State.syncOrDefer_eq]
  exact (EpsOnly.setEp s a _).moves

theorem State.txStart_moves (s : State) : MovesOwn i s s.txStart := by
  rw [State.txStart_eq]
  exact .of_kept rfl rfl rfl

/-! ## The writers -/

/-- UART_TRANSMIT appends at the TX head. -/
theorem State.uartTransmit_moves (s : State) (d : List Byte) (hi : MayWrite i .txHead) :
    MovesOwn i s (s.uartTransmit d).1 := by
  rw [State.uartTransmit_fst]
  intro x
  cases x with
  | txHead => exact .inr hi
  | _ => exact .inl rfl

/-- UART_COPY_RX advances the RX tail. -/
theorem State.uartCopyRx_moves (s : State) (n : Nat) (hi : MayWrite i .rxTail) : MovesOwn i s (s.uartCopyRx n).1 := by
  rw [State.uartCopyRx_fst]
  intro x
  cases x with
  | rxTail => exact .inr hi
  | rxDma => left; simp only [State.ringIndex]; split <;> rfl
  | _ => exact .inl rfl

/-- UART_POLL moves the RX tail when it finds an overrun (41_uart_engine.md R140). -/
theorem State.uartPoll_moves (s : State) (hi : MayWrite i .rxTail) : MovesOwn i s s.uartPoll := by
  refine s.txStart_moves.trans ?_
  unfold State.uartPoll
  simp only [State.pollRx_eq]
  intro x
  cases x with
  | rxTail => exact .inr hi
  | _ => exact .inl rfl

/-- EV_UART_TX_DMA_DONE moves the TX tail past the chunk. -/
theorem State.txDmaDone_moves (h : s.txDmaDone = .ok t) : MovesOwn .evUartTxDmaDone s t := by
  obtain ⟨-, rfl⟩ := State.txDmaDone_eq_ok.1 h
  refine .trans ?_ (State.txStart_moves _)
  intro x
  cases x with
  | txTail => exact .inr (.inl rfl)
  | _ => exact .inl rfl

/-- EV_UART_RX_BYTE moves the DMA position. -/
theorem State.rxByte_moves (s : State) (b : Byte) (hi : MayWrite i .rxDma) : MovesOwn i s (s.rxByte b) := by
  unfold State.rxByte
  split
  · intro x
    cases x with
    | rxDma => exact .inr hi
    | _ => exact .inl rfl
  · exact .refl s

/-- A callback hands its packet to UART_TRANSMIT. -/
theorem State.usbIrq_moves {a : EpAddr} (hi : MayWrite i .txHead) (h : s.usbIrq a = .ok u) : MovesOwn i s u := by
  rcases State.usbIrq_eq_ok h with hu | ⟨b, hu⟩
  · exact hu.moves
  · exact (s.uartTransmit_moves b hi).trans hu.moves

/-! ## The poll -/

theorem State.notify_moves (h : s.notify = .ok t) : MovesOwn i s t := by
  rcases State.notify_eq_ok h with rfl | ⟨-, u, hu, rfl⟩
  · exact .refl _
  · exact (EpChange.transmit hu).moves.trans (.of_kept rfl rfl rfl)

theorem State.sendPackets_moves (hi : MayWrite i .rxTail) (mps n : Nat) : ∀ {s t : State} {left lastk k : Nat},
    s.sendPackets mps n left lastk = .ok (t, k) → MovesOwn i s t := by
  induction n with
  | zero =>
    intro s t left lastk k h
    cases h
    exact .refl s
  | succ n ih =>
    intro s t left lastk k h
    unfold State.sendPackets at h
    split at h
    · cases h; exact .refl s
    · simp only at h
      split at h
      · cases h
      · rename_i u c hu
        exact ((s.uartCopyRx_moves _ hi).trans (EpChange.transmit hu).moves).trans (ih h)

theorem State.rxToUsb_moves {now : Word} (hi : MayWrite i .rxTail) (h : s.rxToUsb now = .ok t) : MovesOwn i s t := by
  unfold State.rxToUsb at h
  simp only at h
  split at h
  · cases h; exact .refl s
  split at h
  · split at h
    · obtain ⟨⟨u, c⟩, hu, rfl⟩ := except_map_eq_ok.1 h
      exact (EpChange.transmit hu).moves.trans (.of_kept rfl rfl rfl)
    · cases h; exact .refl s
  split at h
  · cases h; exact .refl s
  split at h
  · cases h; exact .refl s
  split at h
  · cases h; exact .refl s
  · obtain ⟨⟨u, k⟩, hu, rfl⟩ := except_map_eq_ok.1 h
    exact (State.sendPackets_moves hi _ _ hu).trans (.of_kept rfl rfl rfl)

theorem State.bridgePoll_moves {now : Word} (h : s.bridgePoll now = .ok t) : MovesOwn (.bridgePoll now) s t := by
  have hi : MayWrite (.bridgePoll now) .rxTail := .inr (.inr (.inl ⟨now, rfl⟩))
  have h1 : MovesOwn (.bridgePoll now) s s.uartPoll.gatherFlags := (s.uartPoll_moves hi).trans (.of_kept rfl rfl rfl)
  rcases State.bridgePoll_eq_ok.1 h with ⟨-, rfl⟩ | ⟨-, u, v, hu, hv, ht⟩
  · exact h1
  · exact ((h1.trans (EpsOnly.updatePause hu).moves).trans (State.notify_moves hv)).trans (State.rxToUsb_moves hi ht)

/-! ## The operations that may restart the rings leave the standalone ring -/

theorem EpChange.rb0_kept (h : EpChange s t) : t.rb0 = s.rb0 := by
  obtain ⟨_, _, _, _, _, _, -, rfl⟩ := h.frame
  rfl

theorem State.uartEnable_rb0 (h : s.uartEnable = .ok t) : t.rb0 = s.rb0 := by
  obtain ⟨u, hu, rfl⟩ := except_map_eq_ok.1 h
  rcases State.abortChunk_eq_ok.1 hu with ⟨-, rfl⟩ | ⟨-, -, rfl⟩ <;> rfl

theorem State.setConfig_rb0 (h : s.setConfig = .ok t) : t.rb0 = s.rb0 := by
  obtain ⟨s1, s2, s3, s4, h1, h2, h3, h4, rfl⟩ := State.setConfig_eq_ok.1 h
  calc s4.rb0 = s3.rb0 := State.uartEnable_rb0 h4
    _ = s2.rb0 := (EpChange.setUp h3).rb0_kept
    _ = s1.rb0 := (EpChange.setUp h2).rb0_kept
    _ = s.rb0 := (EpChange.setUp h1).rb0_kept

theorem State.standard_rb0 {req : Request} {r : HandlerResult} (h : s.standard req = .ok (t, r)) : t.rb0 = s.rb0 := by
  rcases State.standard_eq_ok h with rfl | ⟨-, set, hf⟩ | ⟨-, -, -, -, -, rfl⟩ | ⟨-, -, hc⟩
  · rfl
  · rcases State.epFeature_eq_ok hf with ⟨rfl, -⟩ | ⟨-, a, ha, -, rfl⟩
    · rfl
    · exact (EpChange.halt a set ha).rb0_kept
  · rfl
  · rcases State.setConfiguration_eq_ok hc with ⟨-, -, rfl, -⟩ | ⟨-, -, rfl⟩ | ⟨-, -, hc⟩
    · rfl
    · rfl
    · exact (State.setConfig_rb0 hc).trans rfl

theorem State.dispatchRequest_rb0 {req : Request} {data : List Byte} {r : HandlerResult}
    (h : s.dispatchRequest req data = .ok (t, r)) : t.rb0 = s.rb0 := by
  rw [State.dispatchRequest_eq] at h
  split at h
  · have ht : (s.cdc req data).1 = t := by rw [Except.ok.inj h]
    rw [← ht]
    rcases s.cdc_cases req data with hc | hc | hc | hc | ⟨c, -, -, -, hc⟩ <;> rw [hc]
    rfl
  · exact State.standard_rb0 h

theorem State.serveRequest_rb0 {data : List Byte} (h : s.serveRequest data = .ok t) : t.rb0 = s.rb0 := by
  obtain ⟨⟨u, r⟩, hu, rfl⟩ := except_map_eq_ok.1 h
  have hc : (u.completeRequest r).rb0 = u.rb0 := by rw [State.completeRequest_rest]
  exact hc.trans (State.dispatchRequest_rb0 hu)

theorem State.setupPacket_rb0 {p : List Byte} (h : s.setupPacket p = .ok t) : t.rb0 = s.rb0 := by
  rcases State.setupPacket_eq_ok h with ⟨-, -, rfl⟩ | ⟨-, -, -, rfl⟩ | ⟨-, hs⟩
  · rfl
  · rfl
  · exact (State.serveRequest_rb0 hs).trans rfl

theorem State.ctrlOutData_rb0 {d : List Byte} (h : s.ctrlOutData d = .ok t) : t.rb0 = s.rb0 := by
  rcases State.ctrlOutData_eq_ok h with ⟨-, rfl⟩ | ⟨-, -, ⟨-, hs⟩ | ⟨-, -, rfl⟩ | ⟨-, -, rfl⟩⟩
  · rfl
  · exact (State.serveRequest_rb0 hs).trans rfl
  · rfl
  · rfl

theorem State.ctrlOut_rb0 {d : List Byte} (h : s.ctrlOut d = .ok t) : t.rb0 = s.rb0 := by
  unfold State.ctrlOut at h
  split at h
  case h_1 => exact State.ctrlOutData_rb0 h
  case h_2 => exact State.ctrlOutData_rb0 h
  all_goals cases h; rfl

/-! ## Every operation -/

/-- A concluded operation moves its own indices, or leaves a fault mark. -/
theorem State.conclude_moves {α : Type} {r : Except Stop α} {f : α → State} (h : s.conclude (r.map f) = .next t)
    (hr : ∀ v, r = .ok v → MovesOwn i s (f v)) : MovesOwn i s t := by
  rcases State.conclude_eq_next.1 h with h | ⟨c, -, rfl⟩
  · obtain ⟨v, hv, rfl⟩ := except_map_eq_ok.1 h
    exact hr v hv
  · exact .of_kept rfl rfl rfl

/-- An endpoint command is refused, or acts on the endpoint its byte names. -/
theorem State.withEp_moves {op addr : Byte} {f : EpAddr → Host.Outcome State Fault Refusal}
    (h : s.withEp op addr f = .next t) (hf : ∀ a, f a = .next t → MovesOwn i s t) : MovesOwn i s t := by
  unfold State.withEp at h
  split at h
  · exact hf _ h
  · cases h; exact .of_kept rfl rfl rfl

/-- An endpoint command whose effect on the endpoint it names moves its own indices. -/
theorem State.epCommand_moves {α : Type} {op addr : Byte} {r : EpAddr → Except Stop α} {f : α → State}
    (h : s.withEp op addr (fun a => s.conclude ((r a).map f)) = .next t)
    (hr : ∀ a v, r a = .ok v → MovesOwn i s (f v)) : MovesOwn i s t :=
  State.withEp_moves h fun a ha => State.conclude_moves ha (hr a)

/-- A command that is refused unless its operand is legal. -/
theorem refusedUnless_moves {b : Bool} {op : Byte} (h : (if b then .next u else .next (s.refuse op) :
    Host.Outcome State Fault Refusal) = .next t) (hu : MovesOwn i s u) : MovesOwn i s t := by
  split at h <;> cases h
  · exact hu
  · exact .of_kept rfl rfl rfl

/-- An event that waits unless it is enabled. -/
theorem event_moves {b : Bool} {o : Host.Outcome State Fault Refusal} (h : (if b then o else .next s.waits) = .next t)
    (ho : b = true → o = .next t → MovesOwn i s t) : MovesOwn i s t := by
  cases b
  · cases h; exact .of_kept rfl rfl rfl
  · exact ho rfl h

theorem exec_moves (h : exec i s = .next t) : MovesOwn i s t := by
  cases i with
  | rbClear ring =>
    refine refusedUnless_moves h (.answer (fun x => ?_) _ _)
    cases x with
    | rb0Head => exact .inr (.inr (.inl ⟨ring, rfl⟩))
    | rb0Tail => exact .inr (.inr (.inl ⟨ring, rfl⟩))
    | _ => exact .inl rfl
  | rbEnqueue ring data =>
    refine refusedUnless_moves h (.answer (fun x => ?_) _ _)
    cases x with
    | rb0Head => exact .inr (.inl ⟨ring, data, rfl⟩)
    | _ => exact .inl rfl
  | rbDequeue ring limit =>
    refine refusedUnless_moves h (.answer (fun x => ?_) _ _)
    cases x with
    | rb0Tail => exact .inr (.inl ⟨ring, limit, rfl⟩)
    | _ => exact .inl rfl
  | rbAvailableSpace ring => exact refusedUnless_moves h (.answer (.refl s) _ _)
  | rbOccupiedLen ring => exact refusedUnless_moves h (.answer (.refl s) _ _)
  | rbContigLen ring => exact refusedUnless_moves h (.answer (.refl s) _ _)
  | uartConfigure coding =>
    cases h
    refine .answer ?_ _ _
    rcases s.uartConfigure_cases coding with ⟨c, -, -, hc⟩ | ⟨-, hc⟩ <;> rw [hc]
    · exact .of_kept rfl rfl rfl
    · exact .refl s
  | uartEnable =>
    exact State.conclude_moves h fun v hv => .answer (.of_restarts (.inl rfl) (State.uartEnable_rb0 hv)) _ _
  | uartTransmit data => cases h; exact (s.uartTransmit_moves data (.inl ⟨data, rfl⟩)).answer _ _
  | uartPoll => cases h; exact (s.uartPoll_moves (.inl rfl)).answer _ _
  | uartCopyRx limit => cases h; exact (s.uartCopyRx_moves _ (.inr (.inl ⟨limit, rfl⟩))).answer _ _
  | uartHasOverrun => cases h; exact .of_kept rfl rfl rfl
  | uartGetDsr => cases h; exact .of_kept rfl rfl rfl
  | uartGetDcd => cases h; exact .of_kept rfl rfl rfl
  | uartSetDtr arg => exact refusedUnless_moves h (.of_kept rfl rfl rfl)
  | uartTxSpace => cases h; exact .of_kept rfl rfl rfl
  | uartRxLen => cases h; exact .of_kept rfl rfl rfl
  | uartGetCoding => cases h; exact .of_kept rfl rfl rfl
  | evUartTxDmaDone =>
    exact event_moves h fun _ h => State.conclude_moves h fun v hv => (State.txDmaDone_moves hv).taken
  | evUartRxByte arg => exact refusedUnless_moves h (s.rxByte_moves _ (.inl ⟨arg, rfl⟩)).taken
  | evUartParityError => cases h; exact .of_kept rfl rfl rfl
  | evPinLevels arg => exact refusedUnless_moves h (.of_kept rfl rfl rfl)
  | epSetup addr size type =>
    refine State.withEp_moves h fun a ha => ?_
    split at ha
    · exact State.conclude_moves ha fun v hv => (EpChange.setUp hv).moves.answer _ _
    · cases ha; exact .of_kept rfl rfl rfl
  | epTransmitPacket addr data => exact State.epCommand_moves h fun a v hv => (EpChange.transmit hv).moves.answer _ _
  | epWriteAvail addr => exact State.epCommand_moves h fun a v hv => .answer (.refl s) _ _
  | epReadPacket addr limit =>
    refine State.epCommand_moves h fun a v hv => ?_
    have hr : MovesOwn (.epReadPacket addr limit) s v.1 := (EpChange.read hv).moves
    split
    · exact hr.answer _ _
    · exact hr.answer _ _
  | epPause addr => exact State.epCommand_moves h fun a v hv => (State.syncOrDefer_moves hv).answer _ _
  | epUnpause addr => exact State.epCommand_moves h fun a v hv => (State.syncOrDefer_moves hv).answer _ _
  | epSetHalt addr => exact State.epCommand_moves h fun a v hv => (State.syncOrDefer_moves hv).answer _ _
  | epClearHalt addr => exact State.epCommand_moves h fun a v hv => (State.syncOrDefer_moves hv).answer _ _
  | evBusReset => exact .of_busReset s t
  | evEpInDone addr =>
    exact State.withEp_moves h fun a ha => event_moves ha fun he ha =>
      State.conclude_moves ha fun v hv => (EpChange.inDone he hv).moves.taken
  | evEpOut addr data =>
    exact State.withEp_moves h fun a ha => event_moves ha fun he ha =>
      State.conclude_moves ha fun v hv => (EpChange.outPacket he hv).moves.taken
  | epDeconfigureAll => cases h; exact .of_kept rfl rfl rfl
  | epReadStatus sel =>
    simp only [exec, execEpReadStatus] at h
    split at h <;> cases h
    · exact .of_kept rfl rfl rfl
    · exact .of_kept rfl rfl rfl
  | evUsbIrq addr =>
    exact State.withEp_moves h fun a ha => event_moves ha fun _ ha =>
      State.conclude_moves ha fun v hv => (State.usbIrq_moves (.inr (.inl ⟨addr, rfl⟩)) hv).taken
  | evSetup packet =>
    have hi : Restarts (.evSetup packet) := .inr (.inr (.inl ⟨packet, rfl⟩))
    exact State.conclude_moves h fun v hv => .taken (.of_restarts hi (State.setupPacket_rb0 hv))
  | evCtrlOut data =>
    have hi : Restarts (.evCtrlOut data) := .inr (.inr (.inr ⟨data, rfl⟩))
    exact event_moves h fun _ h =>
      State.conclude_moves h fun v hv => .taken (.of_restarts hi (State.ctrlOut_rb0 hv))
  | evCtrlInDone =>
    rcases evCtrlInDone_cases h with ⟨-, rfl⟩ | ⟨-, rfl⟩
    · exact (CtrlChange.inDone rfl).moves.taken
    · exact .of_kept rfl rfl rfl
  | ctrlRegisterFilter handler value mask =>
    simp only [exec, execCtrlRegisterFilter] at h
    split at h
    · refine State.conclude_moves h fun v hv => ?_
      obtain ⟨-, rfl⟩ := State.registerFilter_eq_ok.1 hv
      exact .of_kept rfl rfl rfl
    · cases h; exact .of_kept rfl rfl rfl
  | ctrlReadState => cases h; exact .of_kept rfl rfl rfl
  | bridgePoll now => exact State.conclude_moves h fun v hv => (State.bridgePoll_moves hv).answer _ _
  | bridgeInit =>
    refine State.conclude_moves h fun v hv => ?_
    obtain ⟨u, hu, rfl⟩ := except_map_eq_ok.1 hv
    obtain ⟨-, rfl⟩ := State.registerFilter_eq_ok.1 hu
    exact .of_kept rfl rfl rfl

theorem exec_index_writer (h : exec i s = .next t) {x : RingIndex} (hx : t.ringIndex x ≠ s.ringIndex x) : MayWrite i x :=
  (exec_moves h x).resolve_left hx

end

/-- Settles O21: an operation moves only the indices it may write. -/
theorem ringIndexWriters : Obligations.RingIndexWriters := by
  unfold Obligations.RingIndexWriters
  exact fun i s t h => ⟨exec_index_writer h (x := .txTail), exec_index_writer h (x := .txHead),
    exec_index_writer h (x := .rxDma), exec_index_writer h (x := .rxTail), exec_index_writer h (x := .rb0Head),
    exec_index_writer h (x := .rb0Tail)⟩

end Sys2Proof.Machine
end

section
/-! SUPPORT. Commands as bytes (30_encoding.md R80-R82): what the decoder makes of a command word and its payload. -/

namespace Sys2Proof.Machine

/-! ## Reading a command -/

/-- A 16-bit field is its high byte before its low byte. -/
theorem half_eq_append (h : Half) : h.extractLsb' 8 8 ++ h.extractLsb' 0 8 = h :=
  BitVec.extractLsb'_append_extractLsb' (w := 8) (len := 8)

/-- A command word whose fields make an operation, and a payload of the length that R81 fixes, are read as the operation. -/
theorem decode_command {op sel : Byte} {arg : Half} {payload : List Byte} {i : Instr} (rest : List Byte)
    (hlen : payload.length = payloadLen op arg.toNat) (hdec : decodeFields op sel arg payload = some i) :
    decode (command op sel arg payload ++ rest) = .instr i rest := by
  simp [command, bytes16, decode, half_eq_append, ← hlen, hdec]

/-- An opcode that R82 does not have makes no operation. -/
theorem decodeFields_of_notMem {op : Byte} (h : op ∉ opcodes) (sel : Byte) (arg : Half) (payload : List Byte) :
    decodeFields op sel arg payload = none := by
  unfold decodeFields
  split
  case h_44 => rfl
  all_goals exact absurd (by decide) h

/-- R81 gives an opcode that R82 does not have no payload. -/
theorem payloadLen_of_notMem {op : Byte} (h : op ∉ opcodes) (arg : Nat) : payloadLen op arg = 0 := by
  unfold payloadLen
  split
  case h_9 => rfl
  all_goals exact absurd (by decide) h

/-- A command word with such an opcode is read as four bytes with no meaning. -/
theorem decode_of_notMem {op : Byte} (h : op ∉ opcodes) (sel lo hi : Byte) (rest : List Byte) :
    decode (op :: sel :: lo :: hi :: rest) = .unknownOpcode op rest := by
  simp [decode, payloadLen_of_notMem h, decodeFields_of_notMem h]

/-! ## Every operation is read back -/

/-- Every operation is its opcode, its fields and its payload. -/
theorem encoding_statement (i : Instr) : Laws.Encoding.Statement i := by
  cases i with
  | rbClear ring => exact Laws.Encoding.rbClear ring
  | rbEnqueue ring data => exact Laws.Encoding.rbEnqueue ring data
  | rbDequeue ring limit => exact Laws.Encoding.rbDequeue ring limit
  | rbAvailableSpace ring => exact Laws.Encoding.rbAvailableSpace ring
  | rbOccupiedLen ring => exact Laws.Encoding.rbOccupiedLen ring
  | rbContigLen ring => exact Laws.Encoding.rbContigLen ring
  | uartConfigure coding => exact Laws.Encoding.uartConfigure coding
  | uartEnable => exact Laws.Encoding.uartEnable
  | uartTransmit data => exact Laws.Encoding.uartTransmit data
  | uartPoll => exact Laws.Encoding.uartPoll
  | uartCopyRx limit => exact Laws.Encoding.uartCopyRx limit
  | uartHasOverrun => exact Laws.Encoding.uartHasOverrun
  | uartGetDsr => exact Laws.Encoding.uartGetDsr
  | uartGetDcd => exact Laws.Encoding.uartGetDcd
  | uartSetDtr arg => exact Laws.Encoding.uartSetDtr arg
  | uartTxSpace => exact Laws.Encoding.uartTxSpace
  | uartRxLen => exact Laws.Encoding.uartRxLen
  | uartGetCoding => exact Laws.Encoding.uartGetCoding
  | evUartTxDmaDone => exact Laws.Encoding.evUartTxDmaDone
  | evUartRxByte arg => exact Laws.Encoding.evUartRxByte arg
  | evUartParityError => exact Laws.Encoding.evUartParityError
  | evPinLevels arg => exact Laws.Encoding.evPinLevels arg
  | epSetup addr size type => exact Laws.Encoding.epSetup addr size type
  | epTransmitPacket addr data => exact Laws.Encoding.epTransmitPacket addr data
  | epWriteAvail addr => exact Laws.Encoding.epWriteAvail addr
  | epReadPacket addr limit => exact Laws.Encoding.epReadPacket addr limit
  | epPause addr => exact Laws.Encoding.epPause addr
  | epUnpause addr => exact Laws.Encoding.epUnpause addr
  | epSetHalt addr => exact Laws.Encoding.epSetHalt addr
  | epClearHalt addr => exact Laws.Encoding.epClearHalt addr
  | evBusReset => exact Laws.Encoding.evBusReset
  | evEpInDone addr => exact Laws.Encoding.evEpInDone addr
  | evEpOut addr data => exact Laws.Encoding.evEpOut addr data
  | epDeconfigureAll => exact Laws.Encoding.epDeconfigureAll
  | epReadStatus sel => exact Laws.Encoding.epReadStatus sel
  | evUsbIrq addr => exact Laws.Encoding.evUsbIrq addr
  | evSetup packet => exact Laws.Encoding.evSetup packet
  | evCtrlOut data => exact Laws.Encoding.evCtrlOut data
  | evCtrlInDone => exact Laws.Encoding.evCtrlInDone
  | ctrlRegisterFilter handler value mask => exact Laws.Encoding.ctrlRegisterFilter handler value mask
  | ctrlReadState => exact Laws.Encoding.ctrlReadState
  | bridgePoll now => exact Laws.Encoding.bridgePoll now
  | bridgeInit => exact Laws.Encoding.bridgeInit

/-- The decoder undoes the encoder. -/
theorem decode_encode {i : Instr} (rest : List Byte) (hi : i.wf = true) : decode (encode i ++ rest) = .instr i rest := by
  obtain ⟨op, sel, arg, payload, -, henc, hdec, hlen⟩ := encoding_statement i
  rw [henc, decode_command rest (hlen hi) hdec]

/-- Settles O1: the payload has the length that the command word announces, and the fields say the operation again. -/
theorem decodeEncode : Obligations.DecodeEncode := by
  unfold Obligations.DecodeEncode
  exact fun _ rest hi => decode_encode rest hi

/-- Settles O2: each word is the encoding of its operation, followed by what stands after it. -/
theorem decodeWords : Obligations.DecodeWords := by
  unfold Obligations.DecodeWords
  exact ⟨decode_encode (i := .rbEnqueue 0 [0x41, 0x42, 0x43]) [] rfl, decode_encode (i := .uartCopyRx 0x1234) [] rfl,
    decode_encode (i := .evPinLevels 4) [] rfl, decode_encode (i := .epSetup 0x82 128 2) [] rfl,
    decode_encode (i := .epSetup 0x83 16 3) [] rfl,
    decode_encode (i := .evEpOut 0x01 [0x61, 0x62]) [0x3D, 0x01, 0x00, 0x00] rfl,
    decode_encode (i := .evSetup [0x80, 0x06, 0x00, 0x01, 0x00, 0x00, 0x12, 0x00]) [] rfl,
    decode_encode (i := .ctrlRegisterFilter 1 0x21 0x7F) [] rfl, decode_encode (i := .bridgePoll 0x0200010A) [] rfl⟩

end Sys2Proof.Machine
end

section
/-! SUPPORT. Illegal and unusable operands (30_encoding.md R83, R84; 42_endpoint_engine.md R170): refusals, misuse faults and
events that are not enabled. -/

namespace Sys2Proof.Machine

section
variable {i : Instr} {s : State}

/-! ## Refusals (R83, R84) -/

/-- An operation that is refused unless its operand is legal. -/
theorem refuses_of_check {b : Bool} {o : Host.Outcome State Fault Refusal}
    (hx : exec i s = if b then o else .next (s.refuse (opcodeOf i))) (hb : b = false) : Refuses i s := by
  rw [hb] at hx
  exact hx

/-- An endpoint command is refused when every address its byte can encode is. -/
theorem refuses_of_withEp {addr : Byte} {f : EpAddr → Host.Outcome State Fault Refusal}
    (hx : exec i s = s.withEp (opcodeOf i) addr f)
    (hf : ∀ a, epAddrOfByte addr = some a → f a = .next (s.refuse (opcodeOf i))) : Refuses i s := by
  unfold State.withEp at hx
  split at hx
  · rename_i a ha
    exact hx.trans (hf a ha)
  · exact hx

/-- An endpoint command is refused when its byte encodes no address. -/
theorem refuses_of_noAddr {addr : Byte} {f : EpAddr → Host.Outcome State Fault Refusal}
    (ha : epAddrOfByte addr = none) (hx : exec i s = s.withEp (opcodeOf i) addr f) : Refuses i s :=
  refuses_of_withEp hx fun a h => by rw [ha] at h; cases h

/-- EP_SETUP of a type that is neither BULK nor INTERRUPT. -/
theorem refuses_epSetup {type : BitVec 2} (s : State) (addr : Byte) (size : BitVec 14) (ht : epTypeOf type = none) :
    Refuses (.epSetup addr size type) s :=
  refuses_of_withEp rfl fun a _ => by rw [ht]; rfl

theorem statusNumber_eq_none {sel : Byte} (h : Config.numEp ≤ (sel.extractLsb' 0 4).toNat) : statusNumber sel = none :=
  dif_neg (Nat.not_lt.2 h)

theorem refuses_epReadStatus {sel : Byte} (s : State) (h : Config.numEp ≤ (sel.extractLsb' 0 4).toNat) :
    Refuses (.epReadStatus sel) s := by
  change execEpReadStatus sel s = _
  rw [execEpReadStatus, statusNumber_eq_none h]
  rfl

theorem refuses_ctrlRegisterFilter {handler : Byte} (s : State) (value mask : Byte) (h : handler ≠ 1) :
    Refuses (.ctrlRegisterFilter handler value mask) s := by
  change execCtrlRegisterFilter handler value mask s = _
  rw [execCtrlRegisterFilter, filterHandlerOf, if_neg h]
  rfl

/-! ## Legal addresses of unusable endpoints (R170) -/

/-- An address's own byte reaches the meaning of the command. -/
@[simp] theorem State.withEp_toByte (s : State) (op : Byte) (a : EpAddr) (f : EpAddr → Host.Outcome State Fault Refusal) :
    s.withEp op (epAddrToByte a) f = f a := by
  simp [State.withEp]

/-- An endpoint command whose effect on the endpoint is a misuse. -/
theorem faults_of_misuse {α : Type} {op : Byte} {a : EpAddr} {c : FaultCode} {r : EpAddr → Except Stop α}
    {f : α → State} (hx : exec i s = s.withEp op (epAddrToByte a) fun b => s.conclude ((r b).map f))
    (hr : r a = .error (.misuse c)) : Faults c i s := by
  rw [State.withEp_toByte, hr] at hx
  exact hx

/-- An endpoint event whose enabling condition is false. -/
theorem waits_of_notEnabled {op : Byte} {a : EpAddr} {enabled : EpAddr → Bool}
    {o : EpAddr → Host.Outcome State Fault Refusal}
    (hx : exec i s = s.withEp op (epAddrToByte a) fun b => if enabled b then o b else .next s.waits)
    (he : enabled a = false) : Waits i s := by
  rw [State.withEp_toByte, he] at hx
  exact hx

end

/-- An endpoint of the other direction, or one that is not configured. -/
theorem State.epFor_unusable {s : State} {d : Dir} {a : EpAddr} (h : a.dir ≠ d ∨ (s.ep a).cfg = false) :
    s.epFor d a = .error (.misuse .EP_NOT_CONFIGURED) :=
  State.epFor_eq_error.2 ⟨h, rfl⟩

theorem State.epTransmit_unusable {s : State} {a : EpAddr} (h : a.dir ≠ .IN ∨ (s.ep a).cfg = false) (data : List Byte) :
    s.epTransmit a data = .error (.misuse .EP_NOT_CONFIGURED) := by
  rw [State.epTransmit, State.epFor_unusable h]

theorem State.epReadPacket_unusable {s : State} {a : EpAddr} (h : a.dir ≠ .OUT ∨ (s.ep a).cfg = false) (n : Nat) :
    s.epReadPacket a n = .error (.misuse .EP_NOT_CONFIGURED) := by
  rw [State.epReadPacket, State.epFor_unusable h]

section
variable {s : State} {a : EpAddr}

/-- The commands for an IN endpoint. -/
theorem inCommands_fault (h : a.dir = .OUT ∨ (s.ep a).cfg = false) :
    (∀ d, Faults .EP_NOT_CONFIGURED (.epTransmitPacket (epAddrToByte a) d) s) ∧
    Faults .EP_NOT_CONFIGURED (.epWriteAvail (epAddrToByte a)) s := by
  have h' : a.dir ≠ .IN ∨ (s.ep a).cfg = false := h.imp_left fun hd => by simp [hd]
  exact ⟨fun d => faults_of_misuse rfl (State.epTransmit_unusable h' d),
    faults_of_misuse rfl (except_map_eq_error.2 (State.epFor_unusable h'))⟩

/-- The commands for an OUT endpoint. -/
theorem outCommands_fault (h : a.dir = .IN ∨ (s.ep a).cfg = false) :
    (∀ n, Faults .EP_NOT_CONFIGURED (.epReadPacket (epAddrToByte a) n) s) ∧
    Faults .EP_NOT_CONFIGURED (.epPause (epAddrToByte a)) s ∧
    Faults .EP_NOT_CONFIGURED (.epUnpause (epAddrToByte a)) s := by
  have h' : a.dir ≠ .OUT ∨ (s.ep a).cfg = false := h.imp_left fun hd => by simp [hd]
  have hx := State.epFor_unusable h'
  exact ⟨fun n => faults_of_misuse rfl (State.epReadPacket_unusable h' n.toNat),
    faults_of_misuse rfl (except_map_eq_error.2 hx), faults_of_misuse rfl (except_map_eq_error.2 hx)⟩

/-- The commands and events for either direction. -/
theorem unconfigured_unusable (h : (s.ep a).cfg = false) :
    Faults .EP_NOT_CONFIGURED (.epSetHalt (epAddrToByte a)) s ∧
    Faults .EP_NOT_CONFIGURED (.epClearHalt (epAddrToByte a)) s ∧
    Waits (.evEpInDone (epAddrToByte a)) s ∧ (∀ d, Waits (.evEpOut (epAddrToByte a) d) s) ∧
    Waits (.evUsbIrq (epAddrToByte a)) s := by
  have hx : s.epAny a = .error (.misuse .EP_NOT_CONFIGURED) := State.epAny_eq_error.2 ⟨h, rfl⟩
  exact ⟨faults_of_misuse rfl (except_map_eq_error.2 hx), faults_of_misuse rfl (except_map_eq_error.2 hx),
    waits_of_notEnabled rfl (by simp [Endpoint.inDoneEnabled, h]),
    fun d => waits_of_notEnabled rfl (by simp [Endpoint.outEnabled, h]),
    waits_of_notEnabled rfl (by simp [Endpoint.irqEnabled, h])⟩

end

/-! ## Every illegal command -/

/-- A command word whose opcode is not in the table is refused, its four bytes taken (log 1, log 5). -/
theorem step_of_notMem {s : State} {op sel lo hi : Byte} {rest : List Byte} (hf : s.fault = none)
    (hin : s.inbox = op :: sel :: lo :: hi :: rest) (hop : op ∉ opcodes) :
    step s = .next ((s.consume rest).refuse op) := by
  have hfetch : s.fetch = .unknownOpcode op rest := by rw [State.fetch, hin, decode_of_notMem hop]
  simp only [step, hf, hfetch]

theorem ringCommands_refused {ring : Byte} (s : State) (h : ring ≠ 0) :
    Refuses (.rbClear ring) s ∧ (∀ d, Refuses (.rbEnqueue ring d) s) ∧ (∀ n, Refuses (.rbDequeue ring n) s) ∧
    Refuses (.rbAvailableSpace ring) s ∧ Refuses (.rbOccupiedLen ring) s ∧ Refuses (.rbContigLen ring) s := by
  have hr : legalRing ring = false := decide_eq_false h
  exact ⟨refuses_of_check rfl hr, fun _ => refuses_of_check rfl hr, fun _ => refuses_of_check rfl hr,
    refuses_of_check rfl hr, refuses_of_check rfl hr, refuses_of_check rfl hr⟩

theorem addressCommands_refused {addr : Byte} (s : State)
    (hill : addr.extractLsb' 4 3 ≠ 0#3 ∨ Config.numEp ≤ (addr.extractLsb' 0 4).toNat) :
    (∀ n t, Refuses (.epSetup addr n t) s) ∧ (∀ d, Refuses (.epTransmitPacket addr d) s) ∧
    Refuses (.epWriteAvail addr) s ∧ (∀ n, Refuses (.epReadPacket addr n) s) ∧ Refuses (.epPause addr) s ∧
    Refuses (.epUnpause addr) s ∧ Refuses (.epSetHalt addr) s ∧ Refuses (.epClearHalt addr) s ∧
    Refuses (.evEpInDone addr) s ∧ (∀ d, Refuses (.evEpOut addr d) s) ∧ Refuses (.evUsbIrq addr) s := by
  have ha : epAddrOfByte addr = none := epAddrOfByte_eq_none.2 hill
  exact ⟨fun _ _ => refuses_of_noAddr ha rfl, fun _ => refuses_of_noAddr ha rfl, refuses_of_noAddr ha rfl,
    fun _ => refuses_of_noAddr ha rfl, refuses_of_noAddr ha rfl, refuses_of_noAddr ha rfl, refuses_of_noAddr ha rfl,
    refuses_of_noAddr ha rfl, refuses_of_noAddr ha rfl, fun _ => refuses_of_noAddr ha rfl, refuses_of_noAddr ha rfl⟩

theorem reservedBits_refused (s : State) (arg : Half) :
    (arg.extractLsb' 1 15 ≠ 0#15 → Refuses (.uartSetDtr arg) s) ∧
    (arg.extractLsb' 3 13 ≠ 0#13 → Refuses (.evPinLevels arg) s) ∧
    (arg.extractLsb' 8 8 ≠ 0#8 → Refuses (.evUartRxByte arg) s) :=
  ⟨fun h => refuses_of_check rfl (decide_eq_false h), fun h => refuses_of_check rfl (decide_eq_false h),
    fun h => refuses_of_check rfl (decide_eq_false h)⟩

/-- Settles O3: an illegal operand fails the one check that its operation makes first; an unusable endpoint fails the
legality check of R170, or the enabling condition of its event. -/
theorem illegalCommands : Obligations.IllegalCommands := by
  unfold Obligations.IllegalCommands
  exact ⟨fun s op sel lo hi rest => step_of_notMem, fun s ring => ringCommands_refused s,
    fun s addr => addressCommands_refused s, fun s addr n => ⟨refuses_epSetup s addr n rfl, refuses_epSetup s addr n rfl⟩,
    fun s h v m => refuses_ctrlRegisterFilter s v m, fun s sel => refuses_epReadStatus s, reservedBits_refused,
    fun s a => ⟨inCommands_fault, outCommands_fault, unconfigured_unusable⟩⟩

end Sys2Proof.Machine
end

section
/-! SUPPORT. EPR, the packed view of an endpoint number (30_encoding.md R95, R96): its fields, unpacked. -/

namespace Sys2Proof.Machine

/-! ## Counts -/

/-- There are at most two slots to count. -/
theorem Endpoint.count_le_two (e : Endpoint) (st : SlotState) : e.count st ≤ 2 := by
  unfold Endpoint.count
  split <;> split <;> omega

/-- A count of slots fits its two bits. -/
theorem Endpoint.count_bits (e : Endpoint) (st : SlotState) : (BitVec.ofNat 2 (e.count st)).toNat = e.count st := by
  have := e.count_le_two st
  simp only [BitVec.toNat_ofNat]
  omega

/-! ## Bits of appended fields -/

/-- A bit of the low part of two appended fields. -/
theorem getLsbD_append_low {m n : Nat} (a : BitVec m) (b : BitVec n) {k : Nat} (h : k < n) :
    (a ++ b).getLsbD k = b.getLsbD k := by
  simp [BitVec.getLsbD_append, h]

/-- A bit of the high part of two appended fields. -/
theorem getLsbD_append_high {m n : Nat} (a : BitVec m) (b : BitVec n) {k : Nat} (h : n ≤ k) :
    (a ++ b).getLsbD k = a.getLsbD (k - n) := by
  simp [BitVec.getLsbD_append, Nat.not_lt.2 h]

/-- A slot index as a bit. -/
theorem getLsbD_ofFin_zero (x : Fin 2) : (BitVec.ofFin (w := 1) x).getLsbD 0 = decide (x = 1) := by
  revert x; decide

/-- A flag as a bit. -/
theorem getLsbD_ofBool_zero (b : Bool) : (BitVec.ofBool b).getLsbD 0 = b := by
  cases b <;> rfl

/-! ## The layout -/

/-- The fields of EPR at their bits (R96), in a word of any width. -/
structure EprLayout {w : Nat} (v : BitVec w) (n : BitVec 4) (o i : Endpoint) : Prop where
  ea : v.extractLsb' 0 4 = n
  statTx : v.extractLsb' 4 2 = epStatBits i.hwstat
  hwTx : v.getLsbD 6 = decide (i.hwNext = 1)
  swTx : v.getLsbD 7 = decide (i.swNext = 1)
  loaded : v.extractLsb' 8 2 = BitVec.ofNat 2 i.inFlight
  dblTx : v.getLsbD 10 = i.dbl
  cfgTx : v.getLsbD 11 = i.cfg
  statRx : v.extractLsb' 12 2 = epStatBits o.hwstat
  hwRx : v.getLsbD 14 = decide (o.hwNext = 1)
  swRx : v.getLsbD 15 = decide (o.swNext = 1)
  dblRx : v.getLsbD 16 = o.dbl
  cfgRx : v.getLsbD 17 = o.cfg
  paused : v.getLsbD 18 = o.paused
  held : v.extractLsb' 19 2 = BitVec.ofNat 2 o.held
  sync : v.getLsbD 21 = (o.syncPending || i.syncPending)
  slot0 : v.extractLsb' 22 2 = rxSlotBits o.slot0.state
  slot1 : v.extractLsb' 24 2 = if o.dbl then rxSlotBits o.slot1.state else 0#2
  haltTx : v.getLsbD 26 = i.halt
  haltRx : v.getLsbD 27 = o.halt
  type : v.extractLsb' 28 2 = eprType o i
  irq : v.extractLsb' 30 2 = BitVec.ofNat 2 o.irq

/-- `packEpr` has that layout: its parts have these widths, from IRQ down to EA. -/
theorem packEpr_layout (n : BitVec 4) (o i : Endpoint) : EprLayout (packEpr n o i) n o i := by
  change EprLayout (w := 2 + 2 + 1 + 1 + 2 + 2 + 1 + 2 + 1 + 1 + 1 + 1 + 1 + 2 + 1 + 1 + 2 + 1 + 1 + 2 + 4)
    (packEpr n o i) n o i
  unfold packEpr
  constructor <;> simp (disch := omega) only [BitVec.extractLsb'_append_eq_of_le,
    BitVec.extractLsb'_append_eq_of_add_le, BitVec.extractLsb'_eq_self, getLsbD_append_low, getLsbD_append_high,
    getLsbD_ofFin_zero, getLsbD_ofBool_zero, Nat.reduceSub]

/-- EPR of an endpoint number from 1 on has the layout, read from the two directions of that number. -/
theorem State.epr_layout {n : Fin Config.numEp} (s : State) (hn : n.val ≠ 0) :
    EprLayout (s.epr n) (BitVec.ofNat 4 n.val) (s.ep ⟨.OUT, n⟩) (s.ep ⟨.IN, n⟩) := by
  rw [State.epr, if_neg hn]
  exact packEpr_layout _ _ _

/-- An endpoint number fits the field EA. -/
theorem endpointNumber_bits (n : Fin Config.numEp) : (BitVec.ofNat 4 n.val).toNat = n.val := by
  revert n; decide

/-- EPR of endpoint 0: its two STAT fields alone. -/
theorem State.epr_zero (s : State) : s.epr 0 = if s.ctrl.state = .STALLED then 0x00001010#32 else 0x00003030#32 := by
  change packEpr0 s.ctrl.state = _
  unfold packEpr0
  split <;> rfl

/-- Settles O36: the layout, with the number and the two counts read from their bits (they fit), and IRQ modulo 4. -/
theorem eprFields : Obligations.EprFields := by
  unfold Obligations.EprFields
  refine ⟨fun s n hn => ?_, State.epr_zero, rfl, rfl, rfl, rfl⟩
  intro w o i
  have h : EprLayout w (BitVec.ofNat 4 n.val) o i := s.epr_layout hn
  refine ⟨?_, h.statTx, h.hwTx, h.swTx, ?_, h.dblTx, h.cfgTx, h.statRx, h.hwRx, h.swRx, h.dblRx, h.cfgRx, h.paused, ?_,
    h.sync, ?_, ?_, h.haltTx, h.haltRx, ?_, ?_⟩
  · rw [h.ea, endpointNumber_bits]
  · rw [h.loaded]; exact i.count_bits .LOADED
  · rw [h.held]; exact o.count_bits .HELD
  · rw [h.slot0]; cases o.slot0.state <;> rfl
  · rw [h.slot1]; cases o.slot1.state <;> rfl
  · rw [h.type, eprType]; cases i.type <;> cases o.type <;> rfl
  · rw [h.irq]; rfl

end Sys2Proof.Machine
end

section
/-! SUPPORT. The ring as a queue (40_ring_buffer.md R110): its indices modulo the capacity, and what `put` and `take` do to the
bytes it holds. -/

namespace Sys2Proof.Machine

/-! ## Positions from the tail, modulo the capacity -/

/-- Distinct offsets below the capacity lie at distinct addresses. -/
theorem add_mod_left_inj {t a b n : Nat} (ha : a < n) (hb : b < n) (h : (t + a) % n = (t + b) % n) : a = b :=
  (Nat.ModEq.add_left_cancel' t h).eq_of_lt_of_lt ha hb

/-- The head stands `occ` bytes after the tail. -/
theorem Ring.tail_add_occ {r : Ring} (h : r.InRange) : (r.tail + r.occ) % r.cap = r.head := by
  have hh := h.head_lt
  have ht := h.tail_lt
  rw [Ring.occ_eq h]
  split
  · rw [Nat.add_sub_cancel' ‹_›, Nat.mod_eq_of_lt hh]
  · rw [Nat.add_sub_cancel' (by omega), Nat.add_mod_right, Nat.mod_eq_of_lt hh]

/-- An offset below the capacity that leads from the tail to the head is the occupancy. -/
theorem Ring.occ_eq_of_tail_add {r : Ring} (h : r.InRange) {k : Nat} (hk : k < r.cap)
    (heq : (r.tail + k) % r.cap = r.head) : r.occ = k :=
  add_mod_left_inj (Ring.occ_lt h.cap_pos) hk ((Ring.tail_add_occ h).trans heq.symm)

/-- An offset from the head is that offset after the occupied bytes. -/
theorem Ring.head_add_mod {r : Ring} (h : r.InRange) (k : Nat) :
    (r.head + k) % r.cap = (r.tail + (r.occ + k)) % r.cap := by
  rw [← Ring.tail_add_occ h, Nat.mod_add_mod, Nat.add_assoc]

/-! ## Empty, full and contiguous -/

theorem Ring.occ_eq_zero_iff {r : Ring} (h : r.InRange) : r.occ = 0 ↔ r.head = r.tail := by
  have hh := h.head_lt
  have ht := h.tail_lt
  rw [Ring.occ_eq h]
  split <;> omega

theorem Ring.occ_eq_pred_cap_iff {r : Ring} (h : r.InRange) : r.occ = r.cap - 1 ↔ (r.head + 1) % r.cap = r.tail := by
  have hc := h.cap_pos
  have ho := Ring.occ_lt hc
  have hwrap : (r.tail + (r.cap - 1 + 1)) % r.cap = r.tail := by
    rw [Nat.sub_add_cancel hc, Nat.add_mod_right, Nat.mod_eq_of_lt h.tail_lt]
  rw [Ring.head_add_mod h]
  refine ⟨fun hf => by rw [hf, hwrap], fun hf => ?_⟩
  have hcong : r.occ + 1 ≡ r.cap - 1 + 1 [MOD r.cap] := Nat.ModEq.add_left_cancel' r.tail (hf.trans hwrap.symm)
  exact (Nat.ModEq.add_right_cancel' 1 hcong).eq_of_lt_of_lt ho (by omega)

theorem Ring.contig_le_occ {r : Ring} (h : r.InRange) : r.contig ≤ r.occ := by
  rw [Ring.occ_eq h, Ring.contig]
  split <;> omega

theorem Ring.clear_occ {r : Ring} (hc : 0 < r.cap) : r.clear.occ = 0 :=
  (Ring.occ_eq_zero_iff (r := r.clear) ⟨hc, hc⟩).2 rfl

/-! ## The bytes a ring holds -/

@[simp] theorem Ring.contents_length (r : Ring) : r.contents.length = r.occ := by
  simp [Ring.contents]

theorem Ring.contents_eq_nil_iff {r : Ring} : r.contents = [] ↔ r.occ = 0 := by
  rw [← List.length_eq_zero_iff, Ring.contents_length]

theorem Ring.getElem_contents {r : Ring} {k : Nat} (hk : k < r.contents.length) :
    r.contents[k] = r.storage.read ((r.tail + k) % r.cap) := by
  simp [Ring.contents]

/-- `put` raises the occupancy by the bytes it accepts. -/
theorem Ring.put_occ {r : Ring} (h : r.InRange) (d : List Byte) :
    (r.put d).1.occ = r.occ + min d.length r.space := by
  have hs := Ring.space_add_occ h.cap_pos
  have hc := h.cap_pos
  refine Ring.occ_eq_of_tail_add (Ring.put_inRange h d) ?_ (Ring.head_add_mod h _).symm
  rw [Ring.put_cap]
  omega

/-- `take` lowers the occupancy by the bytes it returns. -/
theorem Ring.take_occ {r : Ring} (h : r.InRange) (n : Nat) : (r.take n).1.occ = r.occ - n := by
  have ho := Ring.occ_lt h.cap_pos
  refine Ring.occ_eq_of_tail_add (Ring.take_inRange h n) (Nat.lt_of_le_of_lt (Nat.sub_le _ _) ho) ?_
  change ((r.tail + min n r.occ) % r.cap + (r.occ - n)) % r.cap = r.head
  rw [Nat.mod_add_mod, Nat.add_assoc, show min n r.occ + (r.occ - n) = r.occ by omega, Ring.tail_add_occ h]

/-- `put` appends the bytes it accepts: the old bytes keep their addresses, the new ones follow at the head. -/
theorem Ring.put_contents {r : Ring} (h : r.InRange) (d : List Byte) :
    (r.put d).1.contents = r.contents ++ d.take r.space := by
  have happ := Ring.put_appended h d
  have hs := Ring.space_add_occ h.cap_pos
  have hc := h.cap_pos
  apply List.ext_getElem
  · simp [Ring.put_occ h, Nat.min_comm]
  intro k hk _
  rw [Ring.contents_length, Ring.put_occ h] at hk
  rw [Ring.getElem_contents, List.getElem_append, Ring.put_tail, Ring.put_cap]
  split
  case isTrue hold =>
    rw [Ring.contents_length] at hold
    rw [Ring.getElem_contents]
    refine happ.kept _ fun j hj heq => ?_
    rw [Ring.head_add_mod h] at heq
    have := add_mod_left_inj (by omega) (by omega) heq
    omega
  case isFalse hnew =>
    rw [Ring.contents_length] at hnew
    have hat : (r.tail + k) % r.cap = (r.head + (k - r.occ)) % r.cap := by
      rw [Ring.head_add_mod h, Nat.add_sub_cancel' (by omega)]
    rw [hat, happ.stored _ (by omega), List.getElem_take, List.getD_eq_getElem _ _ (by omega)]
    simp only [Ring.contents_length]

/-- `take` leaves the bytes it does not return. -/
theorem Ring.take_contents {r : Ring} (h : r.InRange) (n : Nat) : (r.take n).1.contents = r.contents.drop n := by
  apply List.ext_getElem
  · simp [- Ring.take_fst, Ring.take_occ h]
  intro k hk _
  rw [Ring.contents_length, Ring.take_occ h] at hk
  rw [Ring.getElem_contents, List.getElem_drop, Ring.getElem_contents]
  change r.storage.read (((r.tail + min n r.occ) % r.cap + k) % r.cap) = _
  rw [Nat.mod_add_mod, Nat.add_assoc, show min n r.occ = n by omega]

/-- A ring with no free space accepts nothing and stays as it is. -/
theorem Ring.put_of_space_eq_zero {r : Ring} (h : r.InRange) (hs : r.space = 0) (d : List Byte) : r.put d = (r, 0) := by
  simp [Ring.put, hs, Memory.writeBytes, Nat.mod_eq_of_lt h.head_lt]

/-! ## The operations on the standalone ring -/

theorem exec_rbClear (s : State) :
    exec (.rbClear 0) s = .next { s with rb0 := s.rb0.clear, reply := .result .OK .unit } := rfl

theorem exec_rbEnqueue (s : State) (data : List Byte) : exec (.rbEnqueue 0 data) s =
    .next { s with rb0 := (s.rb0.put data).1, reply := .result .OK (.len (s.rb0.put data).2) } := rfl

theorem exec_rbDequeue (s : State) (limit : Half) : exec (.rbDequeue 0 limit) s =
    .next { s with rb0 := (s.rb0.take limit.toNat).1, reply := .result .OK (.bytes (s.rb0.take limit.toNat).2) } := rfl

theorem exec_rbOccupiedLen (s : State) : exec (.rbOccupiedLen 0) s =
    .next { s with reply := .result .OK (.u16 (BitVec.ofNat 16 s.rb0.occ)) } := rfl

theorem exec_rbAvailableSpace (s : State) :
    exec (.rbAvailableSpace 0) s = .next { s with reply := .result .OK (.len s.rb0.space) } := rfl

theorem exec_rbContigLen (s : State) :
    exec (.rbContigLen 0) s = .next { s with reply := .result .OK (.len s.rb0.contig) } := rfl

/-- Settles O17: the counts come from the occupancy, the distance from tail to head modulo the capacity. -/
theorem ringClearAndReads : Obligations.RingClearAndReads := by
  unfold Obligations.RingClearAndReads
  refine ⟨fun s => ⟨exec_rbClear s, exec_rbOccupiedLen s, exec_rbAvailableSpace s, exec_rbContigLen s⟩,
    fun r h => ⟨Ring.occ_eq h, Nat.le_sub_one_of_lt (Ring.occ_lt h.cap_pos), Ring.space_add_occ h.cap_pos,
      Ring.occ_eq_zero_iff h, Ring.occ_eq_pred_cap_iff h, rfl, Ring.contig_le_occ h⟩,
    fun r hc => Ring.clear_occ (Nat.pos_of_ne_zero hc)⟩

/-- Settles O18: the operation is `put`, which appends the bytes that fit; a full ring has no space. -/
theorem ringEnqueue : Obligations.RingEnqueue := by
  unfold Obligations.RingEnqueue
  refine ⟨fun s data => ⟨(s.rb0.put data).1, exec_rbEnqueue s data, fun h => ?_⟩, fun r d h hfull => ?_⟩
  · have hin := Ring.put_inRange h data
    exact ⟨Ring.put_appended h data, hin, Nat.le_sub_one_of_lt (Ring.occ_lt hin.cap_pos)⟩
  · have hs := Ring.space_add_occ h.cap_pos
    exact Ring.put_of_space_eq_zero h (by omega) d

/-- Settles O19: the operation is `take`, which returns the oldest bytes. -/
theorem ringDequeue : Obligations.RingDequeue := by
  unfold Obligations.RingDequeue
  exact fun s limit => ⟨(s.rb0.take limit.toNat).2, exec_rbDequeue s limit,
    fun h => ⟨Ring.take_snd h limit.toNat, Ring.take_inRange h limit.toNat⟩⟩

/-! ## Sequences of operations -/

/-- First in, first out: what the `take`s returned, followed by what the ring still holds, is what it held at first, followed
by what the `put`s were given. -/
theorem ringRun_append_contents {r : Ring} (ops : List RingOp) (h : r.InRange) (hfit : ringFits r ops) :
    (ringRun r ops).2 ++ (ringRun r ops).1.contents = r.contents ++ ringGiven ops := by
  induction ops generalizing r with
  | nil => simp [ringRun, ringGiven]
  | cons op ops ih =>
    cases op with
    | put d =>
      obtain ⟨hd, hrest⟩ := hfit
      have hall : d.take r.space = d := List.take_of_length_le (Nat.le_sub_of_add_le' hd)
      calc (ringRun r (.put d :: ops)).2 ++ (ringRun r (.put d :: ops)).1.contents
        _ = (r.put d).1.contents ++ ringGiven ops := ih (Ring.put_inRange h d) hrest
        _ = r.contents ++ ringGiven (.put d :: ops) := by
          rw [Ring.put_contents h, hall, List.append_assoc, ringGiven]
    | take n =>
      calc (ringRun r (.take n :: ops)).2 ++ (ringRun r (.take n :: ops)).1.contents
        _ = (r.take n).2 ++ ((r.take n).1.contents ++ ringGiven ops) := by
          rw [← ih (Ring.take_inRange h n) hfit, ← List.append_assoc, ringRun]
        _ = r.contents ++ ringGiven (.take n :: ops) := by
          rw [Ring.take_snd h, Ring.take_contents h, ← List.append_assoc, List.take_append_drop, ringGiven]

/-- Settles O20: an empty ring holds nothing at first, so what was given is what was returned and what is left. -/
theorem ringRoundTrip : Obligations.RingRoundTrip := by
  unfold Obligations.RingRoundTrip
  intro r ops h hempty hfit
  have hfifo : (ringRun r ops).2 ++ (ringRun r ops).1.contents = ringGiven ops := by
    rw [ringRun_append_contents ops h hfit, Ring.contents_eq_nil_iff.2 hempty, List.nil_append]
  refine ⟨⟨_, hfifo⟩, fun hdrained => ?_⟩
  rw [← hfifo, Ring.contents_eq_nil_iff.2 hdrained, List.append_nil]

end Sys2Proof.Machine
end

section
/-! SUPPORT. What an operation can end as, for a claim that does not speak of the marks: refused, not enabled, faulted,
or the operation's own effect (60_exceptions.md R325-R327). -/

namespace Sys2Proof.Machine

/-- `P` does not speak of the marks and the reply. -/
def IgnoresMarks (P : State → Prop) : Prop :=
  ∀ s f r q, P s → P { s with fault := f, refused := r, reply := q }

section
variable {P : State → Prop} {s t u : State}

/-- A concluded operation ends with its effect, or with a fault mark on the state before it. -/
theorem IgnoresMarks.conclude (hP : IgnoresMarks P) (hs : P s) {α : Type} {r : Except Stop α} {f : α → State}
    (h : s.conclude (r.map f) = .next t) (hr : ∀ v, r = .ok v → P (f v)) : P t := by
  rcases State.conclude_eq_next.1 h with h | ⟨c, -, rfl⟩
  · obtain ⟨v, hv, rfl⟩ := except_map_eq_ok.1 h
    exact hr v hv
  · exact hP s _ _ _ hs

/-- An endpoint command is refused, or acts on the endpoint its byte names. -/
theorem IgnoresMarks.withEp (hP : IgnoresMarks P) (hs : P s) {op addr : Byte}
    {f : EpAddr → Host.Outcome State Fault Refusal} (h : s.withEp op addr f = .next t)
    (hf : ∀ a, f a = .next t → P t) : P t := by
  unfold State.withEp at h
  split at h
  · exact hf _ h
  · cases h; exact hP s _ _ _ hs

/-- An endpoint command that concludes an operation on the endpoint it names. -/
theorem IgnoresMarks.epCommand (hP : IgnoresMarks P) (hs : P s) {α : Type} {op addr : Byte} {r : EpAddr → Except Stop α}
    {f : α → State} (h : s.withEp op addr (fun a => s.conclude ((r a).map f)) = .next t)
    (hr : ∀ a v, r a = .ok v → P (f v)) : P t :=
  hP.withEp hs h fun a ha => hP.conclude hs ha (hr a)

/-- A command that is refused unless its operand is legal. -/
theorem IgnoresMarks.refusedUnless (hP : IgnoresMarks P) (hs : P s) {b : Bool} {op : Byte}
    (h : (if b then .next u else .next (s.refuse op) : Host.Outcome State Fault Refusal) = .next t) (hu : P u) : P t := by
  split at h <;> cases h
  · exact hu
  · exact hP s _ _ _ hs

/-- An event that waits unless it is enabled. -/
theorem IgnoresMarks.event (hP : IgnoresMarks P) (hs : P s) {b : Bool} {o : Host.Outcome State Fault Refusal}
    (h : (if b then o else .next s.waits) = .next t) (ho : b = true → o = .next t → P t) : P t := by
  cases b
  · cases h; exact hP s _ _ _ hs
  · exact ho rfl h

end
end Sys2Proof.Machine
end

section
/-! PROOF. The TX path keeps the order of its bytes (O32): an operation leaves the wire log and the TX ring alone, appends to
the ring, or moves its oldest bytes to the wire. -/

namespace Sys2Proof.Machine

/-! ## Leaving the TX path alone -/

/-- From `s` to `t` neither the wire log nor the TX ring has changed. -/
structure TxKept (s t : State) : Prop where
  wire : t.wireOut = s.wireOut
  ring : t.txrb = s.txrb

section
variable {i : Instr} {s t u : State}

theorem TxKept.refl (s : State) : TxKept s s := ⟨rfl, rfl⟩

theorem TxKept.trans (h : TxKept s t) (h' : TxKept t u) : TxKept s u := ⟨h'.wire.trans h.wire, h'.ring.trans h.ring⟩

theorem EpChange.txKept (h : EpChange s t) : TxKept s t := by
  obtain ⟨_, _, _, _, _, _, -, rfl⟩ := h.frame
  exact ⟨rfl, rfl⟩

theorem EpsOnly.txKept (h : EpsOnly s t) : TxKept s t := by
  rw [h]
  exact ⟨rfl, rfl⟩

theorem CtrlChange.txKept (h : CtrlChange i s t) : TxKept s t := by
  obtain ⟨_, _, _, _, -, -, rfl⟩ := h.frame
  exact ⟨rfl, rfl⟩

/-- A pause, an unpause or a halt command changes its endpoint. -/
theorem State.syncOrDefer_txKept {a : EpAddr} {r : Except Stop Endpoint} {f : Endpoint → Endpoint}
    (h : (r.map fun e => s.syncOrDefer a (f e)) = .ok t) : TxKept s t := by
  obtain ⟨e, -, rfl⟩ := except_map_eq_ok.1 h
  rw [State.syncOrDefer_eq]
  exact (EpsOnly.setEp s a _).txKept

/-! ### The UART's other operations -/

theorem State.txStart_txKept (s : State) : TxKept s s.txStart := by
  rw [State.txStart_eq]
  exact ⟨rfl, rfl⟩

theorem State.uartConfigure_txKept (s : State) (p : List Byte) : TxKept s (s.uartConfigure p).1 := by
  rcases s.uartConfigure_cases p with ⟨c, -, -, h⟩ | ⟨-, h⟩ <;> rw [h] <;> exact ⟨rfl, rfl⟩

theorem State.uartPoll_txKept (s : State) : TxKept s s.uartPoll := by
  refine s.txStart_txKept.trans ?_
  unfold State.uartPoll
  simp only [State.pollRx_eq]
  exact ⟨rfl, rfl⟩

theorem State.uartCopyRx_txKept (s : State) (n : Nat) : TxKept s (s.uartCopyRx n).1 := by
  rw [State.uartCopyRx_fst]
  exact ⟨rfl, rfl⟩

theorem State.rxByte_txKept (s : State) (b : Byte) : TxKept s (s.rxByte b) := by
  unfold State.rxByte
  split <;> exact ⟨rfl, rfl⟩

theorem State.registerFilter_txKept {f : Filter} (h : s.registerFilter f = .ok t) : TxKept s t := by
  obtain ⟨-, rfl⟩ := State.registerFilter_eq_ok.1 h
  exact ⟨rfl, rfl⟩

/-! ### The poll -/

/-- The sending to the host that ends: nothing sent, the outstanding zero-length packet sent, or a batch of packets sent. -/
theorem State.rxToUsb_cases {now : Word} (h : s.rxToUsb now = .ok t) :
    t = s ∨
    (∃ u c, s.epTransmit Config.epBulkIn [] = .ok (u, c) ∧
      t = { u with br := { u.br with zlpNeeded := false, lastTxTime := now } }) ∨
    (∃ mps n left u k, s.sendPackets mps n left 0 = .ok (u, k) ∧
      t = { u with br := { u.br with lastTxTime := now, zlpNeeded := decide (k = mps) } }) := by
  unfold State.rxToUsb at h
  simp only at h
  split at h
  · cases h; exact .inl rfl
  split at h
  · split at h
    · obtain ⟨⟨u, c⟩, hu, rfl⟩ := except_map_eq_ok.1 h
      exact .inr (.inl ⟨u, c, hu, rfl⟩)
    · cases h; exact .inl rfl
  split at h
  · cases h; exact .inl rfl
  split at h
  · cases h; exact .inl rfl
  split at h
  · cases h; exact .inl rfl
  · obtain ⟨⟨u, k⟩, hu, rfl⟩ := except_map_eq_ok.1 h
    exact .inr (.inr ⟨_, _, _, u, k, hu, rfl⟩)

theorem State.notify_txKept (h : s.notify = .ok t) : TxKept s t := by
  rcases State.notify_eq_ok h with rfl | ⟨-, u, hu, rfl⟩
  · exact .refl _
  · exact (EpChange.transmit hu).txKept.trans ⟨rfl, rfl⟩

theorem State.rxToUsb_txKept {now : Word} (h : s.rxToUsb now = .ok t) : TxKept s t := by
  rcases State.rxToUsb_cases h with rfl | ⟨u, c, hu, rfl⟩ | ⟨mps, n, left, u, k, hu, rfl⟩
  · exact .refl _
  · exact (EpChange.transmit hu).txKept.trans ⟨rfl, rfl⟩
  · rw [State.sendPackets_rest mps n hu]
    exact ⟨rfl, rfl⟩

theorem State.bridgePoll_txKept {now : Word} (h : s.bridgePoll now = .ok t) : TxKept s t := by
  have h1 : TxKept s s.uartPoll.gatherFlags := s.uartPoll_txKept.trans ⟨rfl, rfl⟩
  rcases State.bridgePoll_eq_ok.1 h with ⟨-, rfl⟩ | ⟨-, u, v, hu, hv, ht⟩
  · exact h1
  · exact ((h1.trans (EpsOnly.updatePause hu).txKept).trans (State.notify_txKept hv)).trans (State.rxToUsb_txKept ht)

/-! ### Control requests other than SET_CONFIGURATION 1 -/

theorem State.setConfiguration_txKept {req : Request} {r : HandlerResult} (hv : req.wValue ≠ 1)
    (h : s.setConfiguration req = .ok (t, r)) : TxKept s t := by
  rcases State.setConfiguration_eq_ok h with ⟨-, -, rfl, -⟩ | ⟨-, -, rfl⟩ | ⟨h1, -, -⟩
  · exact .refl _
  · exact ⟨rfl, rfl⟩
  · exact absurd h1 hv

theorem State.standard_txKept {req : Request} {r : HandlerResult} (hc : ¬ req.setsConfiguration1)
    (h : s.standard req = .ok (t, r)) : TxKept s t := by
  rcases State.standard_eq_ok h with rfl | ⟨-, set, hf⟩ | ⟨-, -, -, -, -, rfl⟩ | ⟨hty, hrq, hset⟩
  · exact .refl _
  · rcases State.epFeature_eq_ok hf with ⟨rfl, -⟩ | ⟨-, a, ha, -, rfl⟩
    · exact .refl _
    · exact (EpChange.halt a set ha).txKept
  · exact ⟨rfl, rfl⟩
  · exact State.setConfiguration_txKept (fun hv => hc ⟨hty, hrq, hv⟩) hset

theorem State.cdc_txKept (s : State) (req : Request) (data : List Byte) : TxKept s (s.cdc req data).1 := by
  rcases s.cdc_cases req data with h | h | h | h | ⟨c, -, -, -, h⟩ <;> rw [h] <;> exact ⟨rfl, rfl⟩

theorem State.dispatchRequest_txKept {req : Request} {data : List Byte} {r : HandlerResult}
    (hc : ¬ req.setsConfiguration1) (h : s.dispatchRequest req data = .ok (t, r)) : TxKept s t := by
  rw [State.dispatchRequest_eq] at h
  split at h
  · have ht : (s.cdc req data).1 = t := by rw [Except.ok.inj h]
    exact ht ▸ s.cdc_txKept req data
  · exact State.standard_txKept hc h

theorem State.serveRequest_txKept {data : List Byte} (h : s.serveRequest data = .ok t)
    (hc : ¬ s.request.setsConfiguration1) : TxKept s t := by
  obtain ⟨⟨u, r⟩, hu, rfl⟩ := except_map_eq_ok.1 h
  refine (State.dispatchRequest_txKept hc hu).trans ?_
  rw [State.completeRequest_rest]
  exact ⟨rfl, rfl⟩

/-- SET_CONFIGURATION is an OUT request, so its SETUP is served at once exactly when it announces no data (R221). -/
theorem Request.setsConfiguration1.dirIn {req : Request} (h : req.setsConfiguration1) : req.dirIn = false := by
  rw [Request.dirIn, h.1]
  rfl

theorem State.setupPacket_txKept {p : List Byte} (hc : ¬ ((requestOf p).setsConfiguration1 ∧ (requestOf p).wLength = 0))
    (h : s.setupPacket p = .ok t) : TxKept s t := by
  rcases State.setupPacket_eq_ok h with ⟨-, -, rfl⟩ | ⟨-, -, -, rfl⟩ | ⟨hno, hs⟩
  · exact ⟨rfl, rfl⟩
  · exact ⟨rfl, rfl⟩
  · have hset : ¬ (requestOf p).setsConfiguration1 := fun hset =>
      hc ⟨hset, BitVec.eq_of_toNat_eq (Nat.eq_zero_of_not_pos fun hw => hno ⟨hset.dirIn, hw⟩)⟩
    have hk := State.serveRequest_txKept hs hset
    exact ⟨hk.wire, hk.ring⟩

theorem State.ctrlOutData_txKept {d : List Byte}
    (hc : ¬ (s.request.setsConfiguration1 ∧ s.ctrl.cursor + d.length = s.ctrl.length))
    (h : s.ctrlOutData d = .ok t) : TxKept s t := by
  rcases State.ctrlOutData_eq_ok h with ⟨-, rfl⟩ | ⟨-, -, ⟨hend, hs⟩ | ⟨-, -, rfl⟩ | ⟨-, -, rfl⟩⟩
  · exact ⟨rfl, rfl⟩
  · have hk := State.serveRequest_txKept hs fun hset => hc ⟨hset, hend⟩
    exact ⟨hk.wire, hk.ring⟩
  · exact ⟨rfl, rfl⟩
  · exact ⟨rfl, rfl⟩

theorem State.ctrlOut_txKept {d : List Byte} (hc : ¬ RestartsIn s (.evCtrlOut d)) (h : s.ctrlOut d = .ok t) :
    TxKept s t := by
  have hdata (hst : s.ctrl.state = .DATA_OUT ∨ s.ctrl.state = .LAST_DATA_OUT) (h : s.ctrlOutData d = .ok t) :
      TxKept s t :=
    State.ctrlOutData_txKept (fun ⟨hset, hend⟩ => hc (.inr (.inr (.inr ⟨d, rfl, hset, hend, hst⟩)))) h
  unfold State.ctrlOut at h
  split at h
  case h_1 hst => exact hdata (.inl hst) h
  case h_2 hst => exact hdata (.inr hst) h
  all_goals cases h; exact ⟨rfl, rfl⟩

/-! ## Growing at its end -/

/-- From `s` to `t` the wire log followed by the TX ring's bytes has grown at its end only, and only if `i` is one of the two
operations that transmit. -/
def TxGrows (i : Instr) (s t : State) : Prop :=
  ∃ added, t.wireOut ++ t.txrb.contents = s.wireOut ++ s.txrb.contents ++ added ∧
    (added ≠ [] → (∃ d, i = .uartTransmit d) ∨ (∃ a, i = .evUsbIrq a))

/-- An operation that leaves the TX path alone, and then writes its reply, has not let it grow. -/
theorem TxKept.grows (h : TxKept s u) (hw : t.wireOut = u.wireOut := by rfl) (hr : t.txrb = u.txrb := by rfl) :
    TxGrows i s t :=
  ⟨[], by rw [hw, hr, h.wire, h.ring, List.append_nil], fun hne => absurd rfl hne⟩

theorem TxGrows.kept (h : TxGrows i s t) (h' : TxKept t u) : TxGrows i s u := by
  obtain ⟨added, heq, hi⟩ := h
  exact ⟨added, by rw [h'.wire, h'.ring, heq], hi⟩

theorem TxGrows.ignoresMarks (i : Instr) (s : State) : IgnoresMarks (TxGrows i s) :=
  fun _ _ _ _ h => h.kept ⟨rfl, rfl⟩

/-- UART_TRANSMIT appends the bytes that fit to the ring. -/
theorem State.uartTransmit_txGrows (hs : s.txrb.InRange) (d : List Byte)
    (hi : (∃ d, i = .uartTransmit d) ∨ ∃ a, i = .evUsbIrq a) : TxGrows i s (s.uartTransmit d).1 := by
  refine ⟨(maskFor s.uart.coding d).take s.txrb.space, ?_, fun _ => hi⟩
  rw [State.uartTransmit_fst, List.append_assoc]
  exact congrArg (s.wireOut ++ ·) (Ring.put_contents hs _)

/-- A callback hands its packet to UART_TRANSMIT, or changes the endpoints only. -/
theorem State.usbIrq_txGrows (hs : s.txrb.InRange) {a : EpAddr} {addr : Byte} (h : s.usbIrq a = .ok t) :
    TxGrows (.evUsbIrq addr) s t := by
  rcases State.usbIrq_eq_ok h with ht | ⟨b, ht⟩
  · exact ht.txKept.grows
  · exact (State.uartTransmit_txGrows hs b (.inr ⟨addr, rfl⟩)).kept ht.txKept

/-- The chunk in flight is the oldest bytes of the ring, read in one span. -/
theorem Ring.readBytes_tail {r : Ring} (h : r.InRange) {n : Nat} (hn : n ≤ r.contig) :
    r.storage.readBytes r.tail n = r.contents.take n := by
  have hocc : n ≤ r.occ := hn.trans (Ring.contig_le_occ h)
  have hend : n ≤ r.cap - r.tail := by
    have := h.head_lt
    unfold Ring.contig at hn
    split at hn <;> omega
  rw [← Ring.take_snd h]
  simp only [Ring.take, Nat.min_eq_left hocc, Nat.min_eq_left hend, Nat.sub_self, Memory.readBytes, List.append_nil]

/-- EV_UART_TX_DMA_DONE moves the chunk from the front of the ring to the end of the wire log. -/
theorem State.txDmaDone_txGrows (hs : s.SerialInv) (h : s.txDmaDone = .ok t) : TxGrows i s t := by
  obtain ⟨-, rfl⟩ := State.txDmaDone_eq_ok.1 h
  refine .kept ⟨[], ?_, fun hne => absurd rfl hne⟩ (State.txStart_txKept _)
  have hocc : s.uart.txChunk ≤ s.txrb.occ := hs.chunk.trans (Ring.contig_le_occ hs.txrb)
  have hring : (s.txrb.take s.uart.txChunk).1 = { s.txrb with tail := (s.txrb.tail + s.uart.txChunk) % s.txrb.cap } := by
    rw [Ring.take_fst, Nat.min_eq_left hocc]
  simp only [← hring, Ring.take_contents hs.txrb, Ring.readBytes_tail hs.txrb hs.chunk, List.append_assoc,
    List.take_append_drop, List.append_nil]

/-! ## Every operation -/

theorem exec_txGrows (hs : s.SerialInv) (h : exec i s = .next t) (hr : ¬ RestartsIn s i) : TxGrows i s t := by
  have hP : IgnoresMarks (TxGrows i s) := .ignoresMarks i s
  have h0 : TxGrows i s s := (TxKept.refl s).grows
  cases i with
  | uartEnable => exact absurd (.inl rfl) hr
  | evBusReset => exact absurd (.inr (.inl rfl)) hr
  | uartTransmit data =>
    cases h
    exact (State.uartTransmit_txGrows hs.txrb data (.inl ⟨data, rfl⟩)).kept ⟨rfl, rfl⟩
  | evUsbIrq addr =>
    exact hP.withEp h0 h fun a ha => hP.event h0 ha fun _ ha =>
      hP.conclude h0 ha fun v hv => (State.usbIrq_txGrows hs.txrb hv).kept ⟨rfl, rfl⟩
  | evUartTxDmaDone =>
    exact hP.event h0 h fun _ h => hP.conclude h0 h fun v hv => (State.txDmaDone_txGrows hs hv).kept ⟨rfl, rfl⟩
  | evSetup packet =>
    have hc : ¬ ((requestOf packet).setsConfiguration1 ∧ (requestOf packet).wLength = 0) :=
      fun hset => hr (.inr (.inr (.inl ⟨packet, rfl, hset⟩)))
    exact hP.conclude h0 h fun v hv => (State.setupPacket_txKept hc hv).grows
  | evCtrlOut data =>
    exact hP.event h0 h fun _ h => hP.conclude h0 h fun v hv => (State.ctrlOut_txKept hr hv).grows
  | rbClear _ | rbEnqueue _ _ | rbDequeue _ _ | rbAvailableSpace _ | rbOccupiedLen _ | rbContigLen _ | uartSetDtr _
  | evPinLevels _ =>
    exact hP.refusedUnless h0 h (TxKept.refl s).grows
  | uartHasOverrun | uartGetDsr | uartGetDcd | uartTxSpace | uartRxLen | uartGetCoding | evUartParityError
  | epDeconfigureAll | ctrlReadState =>
    cases h
    exact (TxKept.refl s).grows
  | uartConfigure coding => cases h; exact (s.uartConfigure_txKept coding).grows
  | uartPoll => cases h; exact s.uartPoll_txKept.grows
  | uartCopyRx limit => cases h; exact (s.uartCopyRx_txKept limit.toNat).grows
  | evUartRxByte arg => exact hP.refusedUnless h0 h (s.rxByte_txKept _).grows
  | epSetup addr size type =>
    refine hP.withEp h0 h fun a ha => ?_
    split at ha
    · exact hP.conclude h0 ha fun v hv => (EpChange.setUp hv).txKept.grows
    · cases ha; exact (TxKept.refl s).grows
  | epTransmitPacket addr data =>
    exact hP.epCommand h0 h fun a v hv => (EpChange.transmit hv).txKept.grows
  | epWriteAvail addr => exact hP.epCommand h0 h fun a v hv => (TxKept.refl s).grows
  | epReadPacket addr limit =>
    refine hP.epCommand h0 h fun a v hv => ?_
    have hk : TxKept s v.1 := (EpChange.read hv).txKept
    split <;> exact hk.grows
  | epPause _ | epUnpause _ | epSetHalt _ | epClearHalt _ =>
    exact hP.epCommand h0 h fun a v hv => (State.syncOrDefer_txKept hv).grows
  | evEpInDone addr =>
    exact hP.withEp h0 h fun a ha => hP.event h0 ha fun he ha =>
      hP.conclude h0 ha fun v hv => (EpChange.inDone he hv).txKept.grows
  | evEpOut addr data =>
    exact hP.withEp h0 h fun a ha => hP.event h0 ha fun he ha =>
      hP.conclude h0 ha fun v hv => (EpChange.outPacket he hv).txKept.grows
  | epReadStatus sel =>
    simp only [exec, execEpReadStatus] at h
    split at h <;> cases h <;> exact (TxKept.refl s).grows
  | evCtrlInDone =>
    rcases evCtrlInDone_cases h with ⟨-, rfl⟩ | ⟨-, rfl⟩
    · exact (CtrlChange.inDone rfl).txKept.grows
    · exact (TxKept.refl s).grows
  | ctrlRegisterFilter handler value mask =>
    simp only [exec, execCtrlRegisterFilter] at h
    split at h
    · exact hP.conclude h0 h fun v hv => (State.registerFilter_txKept hv).grows
    · cases h; exact (TxKept.refl s).grows
  | bridgePoll now =>
    exact hP.conclude h0 h fun v hv => (State.bridgePoll_txKept hv).grows
  | bridgeInit =>
    refine hP.conclude h0 h fun v hv => ?_
    obtain ⟨u, hu, rfl⟩ := except_map_eq_ok.1 hv
    exact (State.registerFilter_txKept hu).grows

end

/-- Settles O32: of the operations that do not restart the ring, two append to it, one moves its oldest bytes to the wire,
and the others leave the TX path alone. -/
theorem txPathKeepsOrder : Obligations.TxPathKeepsOrder := by
  unfold Obligations.TxPathKeepsOrder
  exact fun i s t hs h hr => exec_txGrows hs h hr

end Sys2Proof.Machine
end

section
/-! PROOF. Line codings: how they are decoded, encoded, judged and applied (O22, O23). -/

namespace Sys2Proof.Machine

/-! ## Decoding and encoding (30_encoding.md R92; 41_uart_engine.md R131) -/

theorem stopBitsOf_eq_some {b : Byte} {x : StopBits} : stopBitsOf b = some x ↔ b = stopBitsByte x := by
  constructor
  · unfold stopBitsOf
    intro h
    split_ifs at h <;> cases h <;> assumption
  · rintro rfl
    cases x <;> rfl

theorem parityOf_eq_some {b : Byte} {x : Parity} : parityOf b = some x ↔ b = parityByte x := by
  constructor
  · unfold parityOf
    intro h
    split_ifs at h <;> cases h <;> assumption
  · rintro rfl
    cases x <;> rfl

theorem dataBitsOf_eq_some {b : Byte} {x : DataBits} : dataBitsOf b = some x ↔ b = dataBitsByte x := by
  constructor
  · unfold dataBitsOf
    intro h
    split_ifs at h <;> cases h <;> assumption
  · rintro rfl
    cases x <;> rfl

/-- A payload decodes to a coding exactly when its four fields are those of the coding. -/
theorem decodeCoding_eq_some {p : List Byte} {c : LineCoding} : decodeCoding p = some c ↔
    le32 p 0 = c.baud ∧ p.getD 4 0 = stopBitsByte c.stopBits ∧ p.getD 5 0 = parityByte c.parity ∧
      p.getD 6 0 = dataBitsByte c.dataBits := by
  rw [← stopBitsOf_eq_some, ← parityOf_eq_some, ← dataBitsOf_eq_some]
  unfold decodeCoding
  split
  · rename_i sb pa db hsb hpa hdb
    simp only [hsb, hpa, hdb, Option.some.injEq]
    constructor
    · rintro rfl
      exact ⟨rfl, rfl, rfl, rfl⟩
    · rintro ⟨hbaud, rfl, rfl, rfl⟩
      rw [hbaud]
  · rename_i hno
    simp only [reduceCtorEq, false_iff, not_and]
    exact fun _ hsb hpa hdb => hno _ _ _ hsb hpa hdb

theorem toNat_append_eq_add {m n : Nat} (a : BitVec m) (b : BitVec n) : (a ++ b).toNat = b.toNat + 2 ^ n * a.toNat := by
  rw [BitVec.toNat_append, ← Nat.shiftLeft_add_eq_or_of_lt b.isLt, Nat.shiftLeft_eq, Nat.mul_comm, Nat.add_comm]

/-- The little-endian value of four bytes (00_scope.md R9). -/
theorem toNat_le32 (b0 b1 b2 b3 : Byte) (rest : List Byte) : (le32 (b0 :: b1 :: b2 :: b3 :: rest) 0).toNat =
    b0.toNat + 256 * b1.toNat + 65536 * b2.toNat + 16777216 * b3.toNat := by
  simp only [le32, le16, List.getD_cons_zero, List.getD_cons_succ, toNat_append_eq_add]
  omega

theorem le32_encodeCoding (c : LineCoding) : le32 (encodeCoding c) 0 = c.baud := Laws.Encoding.le32_bytes32 c.baud

theorem decodeCoding_encodeCoding (c : LineCoding) : decodeCoding (encodeCoding c) = some c :=
  decodeCoding_eq_some.2 ⟨le32_encodeCoding c, rfl, rfl, rfl⟩

/-! ## The tables of R92, R131 and R135, row by row -/

theorem stopBitsByte_rows (b : Byte) (x : StopBits) : b = stopBitsByte x ↔
    (b = 0 ∧ x = .one) ∨ (b = 1 ∧ x = .onePointFive) ∨ (b = 2 ∧ x = .two) := by
  cases x <;> simp [stopBitsByte]

theorem parityByte_rows (b : Byte) (x : Parity) : b = parityByte x ↔
    (b = 0 ∧ x = .none) ∨ (b = 1 ∧ x = .odd) ∨ (b = 2 ∧ x = .even) := by
  cases x <;> simp [parityByte]

theorem dataBitsByte_rows (b : Byte) (x : DataBits) : b = dataBitsByte x ↔
    (b = 7 ∧ x = .seven) ∨ (b = 8 ∧ x = .eight) ∨ (b = 9 ∧ x = .nine) := by
  cases x <;> simp [dataBitsByte]

theorem legalCodingWith_iff (n9 : Bool) (c : LineCoding) : legalCodingWith n9 c = true ↔
    (c.parity = .none ∧ (c.dataBits = .eight ∨ (c.dataBits = .nine ∧ n9 = true))) ∨
    ((c.parity = .odd ∨ c.parity = .even) ∧ (c.dataBits = .seven ∨ c.dataBits = .eight)) := by
  obtain ⟨_, db, _, pa⟩ := c
  cases pa <;> cases db <;> simp [legalCodingWith]

/-- Settles O22: the decoder reads each field by its own table, which the encoder writes. -/
theorem lineCodings : Obligations.LineCodings := by
  unfold Obligations.LineCodings
  refine ⟨fun b0 b1 b2 b3 f p d c => ?_, fun c => ⟨rfl, decodeCoding_encodeCoding c⟩, legalCodingWith_iff, fun c => rfl⟩
  rw [decodeCoding_eq_some, ← stopBitsByte_rows, ← parityByte_rows, ← dataBitsByte_rows,
    ← toNat_le32 b0 b1 b2 b3 [f, p, d], BitVec.toNat_inj, eq_comm]
  rfl

/-! ## UART_CONFIGURE (41_uart_engine.md R136) -/

theorem exec_uartConfigure (p : List Byte) (s : State) :
    exec (.uartConfigure p) s = .next ((s.uartConfigure p).1.answer (s.uartConfigure p).2 .unit) := rfl

theorem State.uartConfigure_legal {p : List Byte} {c : LineCoding} (s : State) (hp : decodeCoding p = some c)
    (hc : legalCoding c = true) : s.uartConfigure p = ({ s with uart := { s.uart with
      coding := c, effBaud := Config.effectiveBaud c.baud, rxHwm := highWaterMark c.baud } }, .OK) := by
  rcases s.uartConfigure_cases p with ⟨c', hp', -, h⟩ | ⟨hno, -⟩
  · cases hp.symm.trans hp'
    exact h
  · exact absurd hc (by simp [hno c hp])

theorem State.uartConfigure_rejected {p : List Byte} (s : State)
    (hp : ∀ c, decodeCoding p = some c → legalCoding c = false) : s.uartConfigure p = (s, .INVALID_CODING) := by
  rcases s.uartConfigure_cases p with ⟨c, hc, hl, -⟩ | ⟨-, h⟩
  · exact absurd hl (by simp [hp c hc])
  · exact h

/-- The effective rate is inside the peripheral's limits (00_scope.md R7), which are 32-bit values. -/
theorem effectiveBaud_bounds (baud : Word) : Config.baudMin ≤ (Config.effectiveBaud baud).toNat ∧
    (Config.effectiveBaud baud).toNat ≤ Config.baudMax := by
  have hmin : Config.baudMin ≤ Config.baudMax := Nat.le_max_left _ _
  have hmax : Config.baudMax < 2 ^ 32 := by
    have h1 := Config.baudMinFree.isLt
    have h2 := Config.baudMaxFree.isLt
    unfold Config.baudMax Config.baudMin
    omega
  rw [Config.effectiveBaud, BitVec.toNat_ofNat, Nat.mod_eq_of_lt (by omega)]
  omega

/-- Settles O23: a payload that decodes to a legal coding is applied, any other is rejected. -/
theorem uartConfigure : Obligations.UartConfigure := by
  unfold Obligations.UartConfigure
  refine ⟨fun s p c hp hc => ?_, fun s p hp => ?_, effectiveBaud_bounds⟩
  · rw [exec_uartConfigure, s.uartConfigure_legal hp hc]
    rfl
  · rw [exec_uartConfigure, s.uartConfigure_rejected hp]
    rfl

end Sys2Proof.Machine
end

section
/-! PROOF. Transmission: appending to the TX ring, the chunk on its way to the wire, and UART_ENABLE (O24, O31, O25). -/

namespace Sys2Proof.Machine

/-! ## The chunk cap (41_uart_engine.md R142) -/

theorem chunkCapWith_clamps {lo hi : Nat} (div : Nat) (baud : Word) (h : lo ≤ hi) :
    (baud.toNat / div < lo → chunkCapWith div lo hi baud = lo) ∧
    (lo ≤ baud.toNat / div → baud.toNat / div ≤ hi → chunkCapWith div lo hi baud = baud.toNat / div) ∧
    (hi < baud.toNat / div → chunkCapWith div lo hi baud = hi) := by
  unfold chunkCapWith
  generalize baud.toNat / div = q
  omega

/-! ## UART_TRANSMIT (R138) -/

theorem exec_uartTransmit (s : State) (data : List Byte) : exec (.uartTransmit data) s =
    .next ((s.uartTransmit data).1.answer .OK (.len (s.uartTransmit data).2)) := rfl

/-- Settles O24: the ring takes the masked bytes that fit, then `tx_start` runs. -/
theorem uartTransmit : Obligations.UartTransmit := by
  unfold Obligations.UartTransmit
  refine ⟨fun s data => ⟨(s.txrb.put (maskFor s.uart.coding data)).1, ?_, fun h => ?_⟩,
    fun div lo hi baud _ h => chunkCapWith_clamps div baud h, fun _ => rfl, Nat.le_max_left _ _, Nat.le_max_left _ _,
    rfl, rfl⟩
  · rw [exec_uartTransmit, State.uartTransmit_fst, State.uartTransmit_snd]
    rfl
  · have happ := Ring.put_appended h (maskFor s.uart.coding data)
    rwa [maskFor_length] at happ

/-! ## EV_UART_TX_DMA_DONE (R141, R156) -/

theorem State.waits_evUartTxDmaDone {s : State} (h : s.uart.txBusy = false ∨ s.pin.ctsW = true) :
    Waits .evUartTxDmaDone s := by
  have hoff : (s.uart.txBusy && s.pin.cts) = false := by
    rcases h with h | h <;> simp [h, Pins.cts]
  simp only [Waits, exec, execEvUartTxDmaDone, hoff]
  rfl

theorem exec_evUartTxDmaDone {s t : State} (hb : s.uart.txBusy = true) (hc : s.pin.ctsW = false)
    (h : s.txDmaDone = .ok t) : exec .evUartTxDmaDone s = .next t.taken := by
  have hon : (s.uart.txBusy && s.pin.cts) = true := by simp [hb, hc, Pins.cts]
  simp only [exec, execEvUartTxDmaDone, hon, h]
  rfl

/-- Settles O31: the chunk's bytes are emitted, the tail passes them, then `tx_start` runs on an idle engine. -/
theorem uartTxDmaDone : Obligations.UartTxDmaDone := by
  unfold Obligations.UartTxDmaDone
  refine ⟨fun s h => State.waits_evUartTxDmaDone h, fun s hb hc hin => ?_⟩
  intro r again cap
  rw [exec_evUartTxDmaDone hb hc (State.txDmaDone_eq_ok.2 ⟨hin, rfl⟩), State.txStart_eq, Memory.readBytes_eq_map]
  by_cases ha : again
  · rw [if_pos ⟨ha.1, rfl, ha.2⟩, if_pos ha, decide_eq_true ha]
    rfl
  · rw [if_neg fun h => ha ⟨h.1, h.2.2⟩, if_neg ha, decide_eq_false ha]
    rfl

/-! ## UART_ENABLE (R137) -/

theorem exec_uartEnable {s u : State} (h : s.abortChunk = .ok u) :
    exec .uartEnable s = .next (u.uartRestart.answer .OK .unit) := by
  simp only [exec, execUartEnable, State.uartEnable, h]
  rfl

/-- Settles O25: the registers are written out; an abort puts the first bytes of the chunk in flight on the wire. -/
theorem uartEnable : Obligations.UartEnable := by
  unfold Obligations.UartEnable
  refine ⟨fun s hb => ?_, fun s hb hin => ?_⟩
  · rw [exec_uartEnable (State.abortChunk_eq_ok.2 (.inl ⟨hb, rfl⟩))]
    rfl
  · have hk := s.draw_le s.uart.txChunk
    refine ⟨s.draw s.uart.txChunk, hk, ?_⟩
    rw [exec_uartEnable (State.abortChunk_eq_ok.2 (.inr ⟨hb, by omega, rfl⟩)), Memory.readBytes_eq_map]
    rfl

end Sys2Proof.Machine
end

section
/-! PROOF. Reception: the circular DMA, the drain, the poll and its overrun detection (O28, O29, O26, O27). -/

namespace Sys2Proof.Machine

/-! ## The RX window as a ring whose head the DMA moves (10_state.md R23, R24) -/

/-- The ring with the window's bytes, its DMA position as the head. -/
def RxWindow.ring (x : RxWindow) : Ring := ⟨x.cap, x.storage, x.head, x.tail⟩

theorem RxWindow.InRange.ring {x : RxWindow} (h : x.InRange) : x.ring.InRange :=
  ⟨RxWindow.head_lt h.cap_pos, h.tail_lt.trans_eq h.cap_eq.symm⟩

/-- A window whose tail has caught up with the DMA holds nothing. -/
theorem RxWindow.len_resynced {x : RxWindow} (h : x.InRange) (l : Nat) :
    ({ x with tail := x.head, lastLen := l } : RxWindow).len = 0 :=
  (Ring.occ_eq_zero_iff (r := { x.ring with tail := x.head }) ⟨h.ring.head_lt, h.ring.head_lt⟩).2 rfl

/-- Reading the oldest `n` bytes leaves `n` fewer unread. -/
theorem RxWindow.len_drained {x : RxWindow} (h : x.InRange) (n l : Nat) :
    ({ x with tail := (x.tail + min x.len n) % x.cap, lastLen := l } : RxWindow).len = x.len - n := by
  rw [Nat.min_comm]
  exact Ring.take_occ h.ring n

/-- The DMA's position `n` bytes on moves the unread length `n` bytes on, both modulo the capacity. -/
theorem modSub_add_mod (a b k n : Nat) : modSub ((a + k) % n) b n = (modSub a b n + k) % n := by
  rw [modSub, modSub, Nat.mod_add_mod, Nat.mod_add_mod, Nat.add_right_comm]

/-! ## EV_UART_RX_BYTE (41_uart_engine.md R143) -/

/-- A byte's argument has no reserved bit set and carries the byte (30_encoding.md R83). -/
theorem exec_evUartRxByte (s : State) (b : Byte) :
    exec (.evUartRxByte (b.setWidth 16)) s = .next (s.rxByte b).taken := by
  have hlegal : legalRxArg (b.setWidth 16) = true := by
    rw [legalRxArg, decide_eq_true_eq]
    ext k hk
    simp
  have hbyte : (b.setWidth 16).extractLsb' 0 8 = b := by
    ext k hk
    have hk' : k < 16 := by omega
    simp [hk, hk']
  simp only [exec, execEvUartRxByte, hlegal, hbyte]
  rfl

theorem State.rxByte_unarmed {s : State} (h : s.rx.armed = false) (b : Byte) : s.rxByte b = s := by
  rw [State.rxByte, if_neg (by simp [h])]

theorem State.rxByte_armed {s : State} (h : s.rx.armed = true) (b : Byte) : s.rxByte b = { s with rx := { s.rx with
    storage := s.rx.storage.write s.rx.head b
    dmaRem := if s.rx.dmaRem = 1 then Config.rbCapRx else s.rx.dmaRem - 1 } } := by
  rw [State.rxByte, if_pos h]

/-- One transfer of the circular DMA moves the head one on: the remaining count falls, or is reloaded after the last. -/
theorem RxWindow.head_reloaded {x : RxWindow} (h : x.InRange) :
    ({ x with dmaRem := if x.dmaRem = 1 then Config.rbCapRx else x.dmaRem - 1 } : RxWindow).head
      = (x.head + 1) % Config.rbCapRx := by
  have hpos := h.rem_pos
  have hle := h.rem_le
  unfold RxWindow.head
  rw [h.cap_eq]
  unfold Config.rbCapRx at *
  simp only
  split <;> omega

/-- Settles O28: the DMA writes at its position, whatever is unread. -/
theorem uartRxByte : Obligations.UartRxByte := by
  unfold Obligations.UartRxByte
  refine ⟨fun s b h => ?_, fun s b h => ⟨s.rx.storage.write s.rx.head b, ?_, ?_, fun a ha => ?_⟩,
    fun x h => RxWindow.head_reloaded h⟩
  · rw [exec_evUartRxByte, State.rxByte_unarmed h]
    rfl
  · rw [exec_evUartRxByte, State.rxByte_armed h]
    rfl
  · exact Memory.read_write_self _ _ _
  · exact Memory.read_write_other _ _ ha

/-! ## UART_COPY_RX (R144) -/

theorem exec_uartCopyRx (s : State) (limit : Half) : exec (.uartCopyRx limit) s =
    .next ((s.uartCopyRx limit.toNat).1.answer .OK (.bytes (s.uartCopyRx limit.toNat).2)) := rfl

/-- Settles O29: the drain is `take` on the window's bytes, and what is left is the new sample. -/
theorem uartCopyRx : Obligations.UartCopyRx := by
  unfold Obligations.UartCopyRx
  refine ⟨fun s limit h => ?_, fun s limit h => ⟨(s.uartCopyRx limit.toNat).2, ?_, fun hin => ?_⟩⟩
  · rw [exec_uartCopyRx, State.uartCopyRx, if_neg (by simp [h])]
    rfl
  · rw [exec_uartCopyRx, State.uartCopyRx_fst, if_pos h]
    rfl
  · exact State.uartCopyRx_snd s limit.toNat hin h

/-! ## UART_POLL (R140) -/

/-- RTS is driven from the window's level, 0 after an overrun's resynchronisation (R153). -/
theorem RxWindow.rts_eq (x : RxWindow) (m : Nat) : (x.armed && decide (x.polledLen < m)) =
    decide (x.armed = true ∧ (if x.armed = true ∧ x.len < x.lastLen then 0 else x.len) < m) := by
  by_cases ha : x.armed = true
  · simp [RxWindow.polledLen, ha]
  · simp [ha]

theorem exec_uartPoll (s : State) : exec .uartPoll s = .next (s.uartPoll.answer .OK .unit) := rfl

/-- Settles O26: `tx_start`, the sample and RTS, each on registers of its own. -/
theorem uartPoll : Obligations.UartPoll := by
  unfold Obligations.UartPoll
  intro s
  rw [exec_uartPoll, State.uartPoll]
  simp only [State.pollRx_eq, State.txStart_eq, RxWindow.rts_eq]
  by_cases hs : s.uart.enabled = true ∧ s.uart.txBusy = false ∧ 0 < s.txrb.occ
  · simp only [if_pos hs]
    rfl
  · simp only [if_neg hs]
    rfl

/-! ## The overrun law (R154) -/

/-- `t` is `s` after the DMA has moved `n` bytes on, with nothing that the next sample compares changed. -/
structure RxArrived (s t : State) (n : Nat) : Prop where
  inRange : t.rx.InRange
  armed : t.rx.armed = s.rx.armed
  len : t.rx.len = (s.rx.len + n) % Config.rbCapRx
  lastLen : t.rx.lastLen = s.rx.lastLen
  uart : t.uart = s.uart
  fault : t.fault = s.fault

theorem RxArrived.refl {s : State} (h : s.rx.InRange) : RxArrived s s 0 :=
  ⟨h, rfl, (Nat.mod_eq_of_lt h.len_lt).symm, rfl, rfl, rfl⟩

theorem RxArrived.trans {s t u : State} {m n : Nat} (h : RxArrived s t m) (h' : RxArrived t u n) :
    RxArrived s u (m + n) :=
  ⟨h'.inRange, h'.armed.trans h.armed, by rw [h'.len, h.len, Nat.mod_add_mod, Nat.add_assoc], h'.lastLen.trans h.lastLen,
    h'.uart.trans h.uart, h'.fault.trans h.fault⟩

/-- One byte arrives. -/
theorem State.rxByte_arrived {s : State} (h : s.rx.InRange) (ha : s.rx.armed = true) (b : Byte) :
    RxArrived s (s.rxByte b).taken 1 := by
  have hpos := h.rem_pos
  have hle := h.rem_le
  have hhead := RxWindow.head_reloaded h
  rw [State.rxByte_armed ha]
  refine ⟨{ h with rem_pos := ?_, rem_le := ?_ }, rfl, ?_, rfl, rfl, rfl⟩
  · simp only [State.taken_rx]
    split <;> [decide; omega]
  · simp only [State.taken_rx]
    split <;> omega
  · rw [← h.cap_eq] at hhead ⊢
    exact (congrArg (modSub · s.rx.tail s.rx.cap) hhead).trans (modSub_add_mod _ _ _ _)

/-- Any number of bytes arrive, each an event that is taken. -/
theorem execAll_rxBytes (bytes : List Byte) : ∀ {s : State}, s.rx.InRange → s.rx.armed = true → s.fault = none →
    ∃ t, execAll (bytes.map fun b => .evUartRxByte (b.setWidth 16)) s = some t ∧ RxArrived s t bytes.length := by
  induction bytes with
  | nil => exact fun h _ _ => ⟨_, rfl, .refl h⟩
  | cons b bytes ih =>
    intro s h ha hf
    have h1 := State.rxByte_arrived h ha b
    have hf1 := h1.fault.trans hf
    obtain ⟨t, ht, h2⟩ := ih h1.inRange (h1.armed.trans ha) hf1
    refine ⟨t, ?_, ?_⟩
    · simp only [List.map_cons, execAll, exec_evUartRxByte, if_pos hf1, ht]
    · rw [List.length_cons, Nat.add_comm]
      exact h1.trans h2

/-- A poll of an armed window leaves the sample equal to the unread length. -/
theorem exec_uartPoll_samples {s t : State} (h : s.rx.InRange) (ha : s.rx.armed = true)
    (ht : exec .uartPoll s = .next t) : t.rx.lastLen = t.rx.len := by
  rw [uartPoll s] at ht
  cases ht
  by_cases hl : s.rx.armed = true ∧ s.rx.len < s.rx.lastLen
  · simp only [if_pos hl, if_neg (show ¬ s.rx.armed = false by simp [ha])]
    exact (RxWindow.len_resynced h 0).symm
  · simp only [if_neg hl, if_neg (show ¬ s.rx.armed = false by simp [ha])]
    rfl

/-- A drain of an armed window leaves the sample equal to the unread length. -/
theorem exec_uartCopyRx_samples {s t : State} {limit : Half} (h : s.rx.InRange) (ha : s.rx.armed = true)
    (ht : exec (.uartCopyRx limit) s = .next t) : t.rx.lastLen = t.rx.len := by
  rw [exec_uartCopyRx, State.uartCopyRx_fst, if_pos ha] at ht
  cases ht
  have hlen := RxWindow.len_drained h limit.toNat (s.rx.len - min s.rx.len limit.toNat)
  simp only [State.answer_rx, hlen]
  omega

/-- Settles O27: the arriving bytes move the unread length on modulo the capacity, and the poll compares it with the
sample. -/
theorem overrunLaw : Obligations.OverrunLaw := by
  unfold Obligations.OverrunLaw
  refine ⟨fun s bytes h ha hsample hno hf => ?_, fun s t => exec_uartPoll_samples,
    fun s t limit => exec_uartCopyRx_samples⟩
  obtain ⟨t, ht, harr⟩ := execAll_rxBytes bytes h ha hf
  refine ⟨t, _, ht, uartPoll t, ?_⟩
  simp [harr.armed, ha, harr.len, harr.lastLen, harr.uart, hno, hsample]

end Sys2Proof.Machine
end

section
/-! PROOF. The UART's flags, pins and accessors (O30). -/

namespace Sys2Proof.Machine

/-- UART_SET_DTR with a legal argument (30_encoding.md R83; 41_uart_engine.md R148). -/
theorem exec_uartSetDtr (s : State) (level : Bool) : exec (.uartSetDtr (if level then 1 else 0)) s =
    .next { s with pin := { s.pin with dtr := level }, reply := .result .OK .unit } := by
  cases level <;> rfl

/-- EV_PIN_LEVELS with a legal argument (30_encoding.md R83; 41_uart_engine.md R147). -/
theorem exec_evPinLevels (s : State) (dsr dcd cts : Bool) :
    exec (.evPinLevels ((if dsr then 1 else 0) + (if dcd then 2 else 0) + (if cts then 4 else 0))) s =
      .next { s with pin := { s.pin with dsrW := dsr, dcdW := dcd, ctsW := cts }, reply := .event } := by
  cases dsr <;> cases dcd <;> cases cts <;> rfl

/-- Settles O30: each operation's meaning says it; the two with reserved bits get a legal argument. -/
theorem uartAccessors : Obligations.UartAccessors := by
  unfold Obligations.UartAccessors
  exact fun s => ⟨rfl, rfl, rfl, exec_uartSetDtr s, rfl, rfl, rfl, rfl, exec_evPinLevels s⟩

end Sys2Proof.Machine
end

section
/-! PROOF. Every step keeps the packet slots of configured endpoints apart (O14). -/

namespace Sys2Proof.Machine

/-! ## Where an endpoint's slots lie (42_endpoint_engine.md R173) -/

section
variable {a : EpAddr} {e r : Endpoint} {i j : Fin 2} {n base size : Nat} {ty : EpType}

theorem Endpoint.SameLayout.slot_pma (h : e.SameLayout r) (i : Fin 2) : (r.slot i).pma = (e.slot i).pma := by
  unfold Endpoint.slot
  split
  · exact h.pma0
  · exact h.pma1

theorem Endpoint.SameLayout.hasSlot (h : e.SameLayout r) : r.hasSlot i ↔ e.hasSlot i := by
  rw [Endpoint.hasSlot, h.dbl]
  rfl

/-- A configured endpoint's slots end below the allocation mark. -/
theorem Endpoint.Placed.slot_le (h : e.Placed a n) (hc : e.cfg = true) (hi : e.hasSlot i) :
    (e.slot i).pma + e.mps ≤ n := by
  unfold Endpoint.slot
  split
  · exact (h.slot0 hc).2
  · rename_i h0
    exact (h.slot1 hc (hi.resolve_left h0)).2

/-- EP_SETUP's slots begin at the allocation mark or above. -/
theorem Endpoint.le_slot_setUp (e : Endpoint) (a : EpAddr) (hi : (e.setUp a base size ty).hasSlot i) :
    base ≤ ((e.setUp a base size ty).slot i).pma := by
  unfold Endpoint.slot
  split
  · exact le_rfl
  · rename_i h0
    have hd : setupDbl size ty = true := hi.resolve_left h0
    have hpma : (e.setUp a base size ty).slot1.pma = base + setupSlotBytes size ty := if_pos hd
    omega

/-- The second of EP_SETUP's slots begins where the first, rounded up, ends. -/
theorem Endpoint.slot0_le_slot1_setUp (e : Endpoint) (a : EpAddr) (hd : (e.setUp a base size ty).dbl = true) :
    (e.setUp a base size ty).slot0.pma + (e.setUp a base size ty).mps ≤ (e.setUp a base size ty).slot1.pma := by
  have hpma : (e.setUp a base size ty).slot1.pma = base + setupSlotBytes size ty := if_pos hd
  have hround : min size (mpsOf ty) ≤ setupSlotBytes size ty := Nat.le_add_right _ _
  rw [hpma]
  exact Nat.add_le_add_left hround base

end

/-! ## Slots apart -/

/-- Slot `i` of `e` and slot `j` of `f` share no byte. -/
def Endpoint.SlotsApart (e : Endpoint) (i : Fin 2) (f : Endpoint) (j : Fin 2) : Prop :=
  (e.slot i).pma + e.mps ≤ (f.slot j).pma ∨ (f.slot j).pma + f.mps ≤ (e.slot i).pma

theorem Endpoint.SlotsApart.symm {e f : Endpoint} {i j : Fin 2} (h : e.SlotsApart i f j) : f.SlotsApart j e i :=
  Or.symm h

/-- EP_SETUP's own two slots are apart. -/
theorem Endpoint.setUp_slotsApart (e : Endpoint) (a : EpAddr) {base size : Nat} {ty : EpType} {i j : Fin 2}
    (hi : (e.setUp a base size ty).hasSlot i) (hj : (e.setUp a base size ty).hasSlot j) (hij : i ≠ j) :
    (e.setUp a base size ty).SlotsApart i (e.setUp a base size ty) j := by
  by_cases h0 : i = 0
  · have hj0 : j ≠ 0 := fun h => hij (h0.trans h.symm)
    have hle := e.slot0_le_slot1_setUp a (hj.resolve_left hj0)
    exact .inl (by simpa [Endpoint.slot, h0, hj0] using hle)
  · have hj0 : j = 0 := by omega
    have hle := e.slot0_le_slot1_setUp a (hi.resolve_left h0)
    exact .inr (by simpa [Endpoint.slot, h0, hj0] using hle)

section
variable {i : Instr} {s t : State} {a : EpAddr}

/-- Endpoints configured alike keep their slots apart. -/
theorem State.SlotsDisjoint.of_sameLayout (hd : s.SlotsDisjoint) (h : ∀ b, (s.ep b).SameLayout (t.ep b)) :
    t.SlotsDisjoint := by
  intro a b i j hca hcb hi hj hne
  rw [(h a).slot_pma, (h b).slot_pma, (h a).mps, (h b).mps]
  rw [(h a).cfg] at hca
  rw [(h b).cfg] at hcb
  exact hd a b i j hca hcb ((h a).hasSlot.1 hi) ((h b).hasSlot.1 hj) hne

theorem Endpoint.SameLayout.refl (e : Endpoint) : e.SameLayout e := ⟨rfl, rfl, rfl, rfl, rfl, rfl, rfl⟩

/-- A move of one endpoint leaves every slot where it is. -/
theorem State.EpUpdated.sameLayout {r : Endpoint} (hu : s.EpUpdated t a r) (hl : (s.ep a).SameLayout r) (b : EpAddr) :
    (s.ep b).SameLayout (t.ep b) := by
  by_cases hb : b = a
  · subst hb
    rwa [hu.here]
  · rw [hu.others b hb]
    exact .refl _

/-- EP_SETUP allocates above the mark, and the slots of the other endpoints lie below it. -/
theorem State.SlotsDisjoint.setUp {n : Nat} {ty : EpType} (hd : s.SlotsDisjoint) (hs : s.EndpointInv)
    (h : s.epSetup a n ty = .ok t) : t.SlotsDisjoint := by
  obtain ⟨ha, -, -, rfl⟩ := State.epSetup_eq_ok.1 h
  generalize ht : ({ s with usb := { s.usb with pmaNext := setupFinal s.usb.pmaNext n ty } }.setEp a
    ((s.ep a).setUp a s.usb.pmaNext n ty)) = t
  have hhere : t.ep a = (s.ep a).setUp a s.usb.pmaNext n ty := by rw [← ht, State.ep_setEp_self _ _ ha]
  have hother : ∀ b, b ≠ a → t.ep b = s.ep b := fun b hb => by rw [← ht, State.ep_setEp_other _ _ hb]; rfl
  have hbelow : ∀ b i j, b ≠ a → (t.ep b).cfg = true → (t.ep b).hasSlot i → (t.ep a).hasSlot j →
      (t.ep b).SlotsApart i (t.ep a) j := by
    intro b i j hb hc hi hj
    rw [hother b hb] at hc hi ⊢
    rw [hhere] at hj ⊢
    exact .inl (((hs.placed b).slot_le hc hi).trans ((s.ep a).le_slot_setUp a hj))
  intro x y i j hcx hcy hi hj hne
  by_cases hx : x = a
  · by_cases hy : y = a
    · subst hx hy
      rw [hhere] at hi hj ⊢
      exact Endpoint.setUp_slotsApart _ _ hi hj fun hij => hne (by rw [hij])
    · subst hx
      exact (hbelow y j i hy hcy hj hi).symm
  · by_cases hy : y = a
    · subst hy
      exact hbelow x i j hx hcx hi hj
    · rw [hother x hx] at hcx hi ⊢
      rw [hother y hy] at hcy hj ⊢
      exact hd x y i j hcx hcy hi hj hne

theorem State.slotsDisjoint_deconfigureAll (s : State) : s.deconfigureAll.SlotsDisjoint := by
  intro a b i j hc
  rw [State.ep_deconfigureAll] at hc
  exact absurd hc Bool.false_ne_true

theorem Change.keeps_slotsDisjoint (h : Change i s t) (hs : s.EndpointInv) (hd : s.SlotsDisjoint) :
    t.SlotsDisjoint := by
  rcases h.endpoints_kept with h | ⟨hep, -, -⟩
  · rcases hs.epChange_cases h with rfl | ⟨a, r, -, hm, hu⟩ | ⟨a, n, ty, hset⟩ | rfl
    · exact hd
    · exact hd.of_sameLayout (hu.sameLayout hm.sameLayout)
    · exact hd.setUp hs hset
    · exact s.slotsDisjoint_deconfigureAll
  · exact hd.of_sameLayout fun b => hep b ▸ .refl _

end

/-- Settles O14: a packet or a synchronisation leaves the slots where they are; EP_SETUP allocates above all of them. -/
theorem slotsDisjointKept : Obligations.SlotsDisjointKept := by
  unfold Obligations.SlotsDisjointKept
  intro s t hs hd h
  have hboth := step_keeps (P := fun s => s.EndpointInv ∧ s.SlotsDisjoint)
    (fun hc hp => ⟨hc.keeps_endpoints hp.1, hc.keeps_slotsDisjoint hp.1 hp.2⟩) ⟨hs, hd⟩ h
  exact hboth.2

end Sys2Proof.Machine
end

section
/-! SUPPORT. The commands and events of the endpoint engine as the engine's operations (42_endpoint_engine.md), and what
storing one endpoint leaves as it was. -/

namespace Sys2Proof.Machine

section
variable {i : Instr} {s : State} {a : EpAddr}

/-! ## Commands and events -/

theorem exec_epSetup (s : State) (a : EpAddr) (size : BitVec 14) (ty : EpType) :
    exec (.epSetup (epAddrToByte a) size (epTypeBits ty)) s =
      s.conclude ((s.epSetup a size.toNat ty).map (·.answer .OK .unit)) := by
  simp only [exec, execEpSetup, State.withEp_toByte, epTypeOf_bits]

theorem exec_epTransmitPacket (s : State) (a : EpAddr) (data : List Byte) :
    exec (.epTransmitPacket (epAddrToByte a) data) s =
      s.conclude ((s.epTransmit a data).map fun r => r.1.answer r.2 .unit) := s.withEp_toByte 0x31 a _

theorem exec_epWriteAvail (s : State) (a : EpAddr) : exec (.epWriteAvail (epAddrToByte a)) s =
    s.conclude ((s.epWriteAvail a).map fun n => s.answer .OK (.len n)) := s.withEp_toByte 0x32 a _

theorem exec_epReadPacket (s : State) (a : EpAddr) (limit : Half) :
    exec (.epReadPacket (epAddrToByte a) limit) s = s.conclude ((s.epReadPacket a limit.toNat).map fun r =>
      match r.2 with
      | some b => r.1.answer .OK (.bytes b)
      | none => r.1.answer .NOT_READY .unit) := s.withEp_toByte 0x33 a _

theorem exec_evEpInDone (he : (s.ep a).inDoneEnabled = true) : exec (.evEpInDone (epAddrToByte a)) s =
    s.conclude ((s.epInDone a).map State.taken) := (s.withEp_toByte 0x39 a _).trans (if_pos he)

theorem exec_evEpOut {data : List Byte} (he : (s.ep a).outEnabled data.length = true) :
    exec (.evEpOut (epAddrToByte a) data) s = s.conclude ((s.epOutPacket a data).map State.taken) :=
  (s.withEp_toByte 0x3A a _).trans (if_pos he)

theorem exec_evUsbIrq (he : (s.ep a).irqEnabled = true) : exec (.evUsbIrq (epAddrToByte a)) s =
    s.conclude ((s.usbIrq a).map State.taken) := (s.withEp_toByte 0x3D a _).trans (if_pos he)

/-- A concluded operation that stops at a misuse is a fault of its command. -/
theorem faults_of_conclude {α : Type} {c : FaultCode} {r : Except Stop α} {f : α → State}
    (hx : exec i s = s.conclude (r.map f)) (hr : r = .error (.misuse c)) : Faults c i s := by
  rw [hr] at hx
  exact hx

/-! ## Enabling conditions (R178, R181, R198) -/

theorem Endpoint.inDoneEnabled_iff {e : Endpoint} : e.inDoneEnabled = true ↔
    e.cfg = true ∧ e.hwstat = .VALID ∧ (e.slot e.hwIdx).state = .LOADED := by
  simp [Endpoint.inDoneEnabled, and_assoc]

theorem Endpoint.outEnabled_iff {e : Endpoint} {n : Nat} : e.outEnabled n = true ↔
    e.cfg = true ∧ e.hwstat = .VALID ∧ (e.slot e.hwIdx).state = .FREE ∧ n ≤ e.mps := by
  simp [Endpoint.outEnabled, and_assoc]

theorem Endpoint.irqEnabled_iff {e : Endpoint} : e.irqEnabled = true ↔ e.cfg = true ∧ 0 < e.irq := by
  simp [Endpoint.irqEnabled]

/-! ## Storing one endpoint -/

theorem State.setEp_frame_in (s : State) (e : Endpoint) (hd : a.dir = .IN) :
    s.setEp a e = { s with epIn := (s.setEp a e).epIn } := by
  unfold State.setEp
  split
  · rfl
  · rename_i ho
    rw [hd] at ho
    cases ho
  · rfl

theorem State.setEp_frame_out (s : State) (e : Endpoint) (hd : a.dir = .OUT) :
    s.setEp a e = { s with epOut := (s.setEp a e).epOut } := by
  unfold State.setEp
  split
  · rfl
  · rfl
  · rename_i hi
    rw [hd] at hi
    cases hi

end

end Sys2Proof.Machine
end

section
/-! PROOF. EP_SETUP, packets and the reads of the endpoint engine (O33, O34, O35, O37, O38, O39). -/

namespace Sys2Proof.Machine

/-! ## EP_SETUP (42_endpoint_engine.md R171-R173) -/

/-- Settles O33: the faults are the operation's own checks in order; the endpoint stored is the one it sets up. -/
theorem epSetup : Obligations.EpSetup := by
  unfold Obligations.EpSetup
  intro s a size ty i mps dbl sz final
  have hx := exec_epSetup s a size ty
  have hn : size ≠ 0 → size.toNat ≠ 0 := fun h h0 => h (BitVec.eq_of_toNat_eq h0)
  have hmps : mps = min size.toNat (mpsOf ty) := by cases ty <;> rfl
  have hsz : sz = setupSlotBytes size.toNat ty := by cases ty <;> rfl
  have hfinal : final = setupFinal s.usb.pmaNext size.toNat ty := by cases ty <;> rfl
  refine ⟨fun h0 => ?_, fun h0 h1 => ?_, fun h0 h1 h2 => ?_, fun h0 h1 h2 => ?_⟩
  · exact faults_of_conclude hx (by rw [State.epSetup, if_pos h0])
  · exact faults_of_conclude hx (by rw [State.epSetup, if_neg h0, if_pos (by rw [h1]; rfl)])
  · exact faults_of_conclude hx (by rw [State.epSetup, if_neg h0, if_neg (hn h1), if_pos (hfinal ▸ h2)])
  · rw [State.epSetup_eq_ok.2 ⟨h0, hn h1, hfinal ▸ h2, rfl⟩] at hx
    generalize hr : (s.ep a).setUp a s.usb.pmaNext size.toNat ty = r at hx
    refine ⟨_, hx, ?_, fun b hb => State.ep_setEp_other _ _ hb, ?_⟩
    · rw [State.setEp_frame, hfinal]
      rfl
    · rw [show (State.answer _ _ _).ep a = r from State.ep_setEp_self _ _ h0, hmps, hsz, ← hr]
      obtain ⟨d, n⟩ := a
      cases d <;> exact ⟨rfl, rfl, rfl, rfl, rfl, rfl, rfl, rfl, rfl, rfl, rfl, rfl, rfl, rfl, rfl, rfl⟩

/-! ## EP_TRANSMIT_PACKET (R174) and EP_WRITE_AVAIL (R175) -/

/-- Settles O34: the operation's checks in order; the packet is written at its slot's offset, the endpoint stored. -/
theorem epTransmitPacket : Obligations.EpTransmitPacket := by
  unfold Obligations.EpTransmitPacket
  intro s a data i e sl legal
  have hx := exec_epTransmitPacket s a data
  refine ⟨fun h => ?_, fun h hl => ?_, fun h hl hb => ?_, fun h hl hb hfit => ?_⟩
  · have hun : a.dir ≠ .IN ∨ (s.ep a).cfg = false := by
      rw [← Bool.not_eq_true, ← not_and_or]
      exact h
    exact faults_of_conclude hx (State.epTransmit_unusable hun data)
  · refine faults_of_conclude hx ?_
    rw [State.epTransmit, State.epFor_eq_ok.2 ⟨h.1, h.2, rfl⟩]
    exact if_pos hl
  · rw [State.epTransmit_eq_ok.2 ⟨h.1, h.2, hl, .inl ⟨hb, rfl, rfl⟩⟩] at hx
    exact hx
  · rw [State.epTransmit_eq_ok.2 ⟨h.1, h.2, hl, .inr ⟨hb, hfit, rfl, rfl⟩⟩] at hx
    have hn := State.num_ne_zero_of_cfg h.2
    refine ⟨_, hx, ?_, fun b hne => State.ep_setEp_other _ _ hne, State.ep_setEp_self _ _ hn, fun k hk => ?_,
      fun x hout => ?_⟩
    · rw [State.setEp_frame_in _ _ h.1]
      rfl
    · simpa [State.readByte_eq, State.space] using Memory.read_writeBytes_at s.pma sl.pma data hk
    · simpa [State.readByte_eq, State.space] using Memory.read_writeBytes_other s.pma sl.pma data hout

/-- Settles O35: neither operation writes; the status number is read from the selector's low four bits. -/
theorem epReads : Obligations.EpReads := by
  unfold Obligations.EpReads
  refine ⟨fun s a => ⟨fun hd hc => ?_, fun h => (inCommands_fault h).2⟩,
    fun s sel => ⟨fun n hn => ?_, refuses_epReadStatus s⟩⟩
  · rw [exec_epWriteAvail, State.epWriteAvail, State.epFor_eq_ok.2 ⟨hd, hc, rfl⟩]
    rfl
  · have hsel : statusNumber sel = some n := by simp [statusNumber, hn]
    simp only [exec, execEpReadStatus, hsel]
    rfl

/-! ## Packets of the host (R178, R181) -/

/-- Settles O37: the slot's bytes go to the host's log, and the endpoint is stored with the slot empty. -/
theorem evEpInDone : Obligations.EvEpInDone := by
  unfold Obligations.EvEpInDone
  intro s a i e sl enabled
  refine ⟨fun h => waits_of_notEnabled rfl (Bool.eq_false_iff.2 (mt Endpoint.inDoneEnabled_iff.1 h)),
    fun h hfit => ?_⟩
  have hx := exec_evEpInDone (Endpoint.inDoneEnabled_iff.2 h)
  rw [State.epInDone_eq_ok.2 ⟨hfit, rfl⟩] at hx
  refine ⟨_, hx, ?_, fun b hb => State.ep_setEp_other _ _ hb,
    State.ep_setEp_self _ _ (State.num_ne_zero_of_cfg h.1)⟩
  rw [State.setEp_frame, State.slotBytes, Memory.readBytes_eq_map]
  rfl

/-- Settles O38: the bytes are written at the slot's offset, and the endpoint is stored with the slot full. -/
theorem evEpOut : Obligations.EvEpOut := by
  unfold Obligations.EvEpOut
  intro s a data i e sl enabled
  refine ⟨fun h => waits_of_notEnabled rfl (Bool.eq_false_iff.2 (mt Endpoint.outEnabled_iff.1 h)),
    fun h hfit => ?_⟩
  have hx := exec_evEpOut (Endpoint.outEnabled_iff.2 h)
  rw [State.epOutPacket_eq_ok.2 ⟨hfit, rfl⟩] at hx
  refine ⟨_, hx, ?_, fun b hb => State.ep_setEp_other _ _ hb, State.ep_setEp_self _ _ (State.num_ne_zero_of_cfg h.1),
    fun k hk => ?_, fun x hout => ?_⟩
  · rw [State.setEp_frame]
    rfl
  · simpa [State.readByte_eq, State.space] using Memory.read_writeBytes_at s.pma sl.pma data hk
  · simpa [State.readByte_eq, State.space] using Memory.read_writeBytes_other s.pma sl.pma data hout

/-! ## EP_READ_PACKET (R179, R180) -/

/-- Settles O39: the operation's checks in order; the endpoint is stored with the slot acknowledged. -/
theorem epReadPacket : Obligations.EpReadPacket := by
  unfold Obligations.EpReadPacket
  intro s a limit i e sl legal
  have hx := exec_epReadPacket s a limit
  refine ⟨fun h => ?_, fun h hcb => ?_, fun h hcb hf => ?_, fun h hcb hf hl => ?_, fun h hcb hf hl hfit => ?_⟩
  · have hun : a.dir ≠ .OUT ∨ (s.ep a).cfg = false := by
      rw [← Bool.not_eq_true, ← not_and_or]
      exact h
    exact faults_of_conclude hx (State.epReadPacket_unusable hun limit.toNat)
  · refine faults_of_conclude hx ?_
    rw [State.epReadPacket, State.epFor_eq_ok.2 ⟨h.1, h.2, rfl⟩]
    exact if_pos hcb
  · rw [State.epReadPacket_eq_ok.2 ⟨h.1, h.2, hcb, .inl ⟨hf, rfl, rfl⟩⟩] at hx
    exact hx
  · refine faults_of_conclude hx ?_
    rw [State.epReadPacket, State.epFor_eq_ok.2 ⟨h.1, h.2, rfl⟩]
    exact (if_neg (not_not.2 hcb)).trans ((if_neg (not_not.2 hf)).trans (if_pos hl))
  · rw [State.epReadPacket_eq_ok.2 ⟨h.1, h.2, hcb, .inr ⟨hf, hl, hfit, rfl, rfl⟩⟩] at hx
    refine ⟨_, hx, ?_, fun b hne => State.ep_setEp_other _ _ hne,
      State.ep_setEp_self _ _ (State.num_ne_zero_of_cfg h.2)⟩
    rw [State.setEp_frame_out _ _ h.1, State.slotBytes, Memory.readBytes_eq_map]
    rfl

end Sys2Proof.Machine
end

section
/-! PROOF. Pausing and halting an endpoint, and a completion callback without a packet (O40, O41). -/

namespace Sys2Proof.Machine

/-! ## EP_PAUSE, EP_UNPAUSE, EP_SET_HALT, EP_CLEAR_HALT (42_endpoint_engine.md R182-R184, R188, R189) -/

section
variable {i : Instr} {s : State} {a : EpAddr} {op : Byte} {r : EpAddr → Except Stop Endpoint}
  {f : Endpoint → Endpoint}

/-- `i` looks its endpoint up with `r`, changes it by `f`, and has it synchronised at once or after the callback. -/
def SetsFlag (i : Instr) (s : State) (op : Byte) (a : EpAddr) (r : EpAddr → Except Stop Endpoint)
    (f : Endpoint → Endpoint) : Prop :=
  exec i s = s.withEp op (epAddrToByte a) fun b =>
    s.conclude (((r b).map fun e => s.syncOrDefer b (f e)).map (·.answer .OK .unit))

/-- The look-up `r` takes the endpoint `a` exactly when `legal`. -/
structure LooksUp (s : State) (a : EpAddr) (r : EpAddr → Except Stop Endpoint) (legal : Bool) : Prop where
  cfg : legal = true → (s.ep a).cfg = true
  ok : legal = true → r a = .ok (s.ep a)
  error : legal = false → r a = .error (.misuse .EP_NOT_CONFIGURED)

theorem State.epFor_looksUp (s : State) (d : Dir) (a : EpAddr) :
    LooksUp s a (s.epFor d) (decide (a.dir = d) && (s.ep a).cfg) := by
  refine ⟨fun h => (Bool.and_eq_true_iff.1 h).2, fun h => ?_, fun h => ?_⟩
  · obtain ⟨hd, hc⟩ := Bool.and_eq_true_iff.1 h
    exact State.epFor_eq_ok.2 ⟨of_decide_eq_true hd, hc, rfl⟩
  · exact State.epFor_unusable ((Bool.and_eq_false_iff.1 h).imp_left of_decide_eq_false)

theorem State.epAny_looksUp (s : State) (a : EpAddr) : LooksUp s a s.epAny (s.ep a).cfg :=
  ⟨id, fun h => State.epAny_eq_ok.2 ⟨h, rfl⟩, fun h => State.epAny_eq_error.2 ⟨h, rfl⟩⟩

/-- What such a command does to an endpoint that its look-up takes. -/
theorem SetsFlag.exec_eq (h : SetsFlag i s op a r f) (hr : r a = .ok (s.ep a)) :
    exec i s = .next ((s.syncOrDefer a (f (s.ep a))).answer .OK .unit) := by
  rw [SetsFlag, State.withEp_toByte, hr] at h
  exact h

/-- The state a synchronisation, at once or deferred, leaves: one endpoint stored. -/
theorem State.syncOrDefer_answered (s : State) (hc : (s.ep a).cfg = true) (e : Endpoint) :
    let t := (s.syncOrDefer a e).answer .OK .unit
    t = { s with epOut := t.epOut, epIn := t.epIn, reply := .result .OK .unit } ∧
    (∀ b, b ≠ a → t.ep b = s.ep b) ∧
    (s.usb.inCallback = some a → t.ep a = { e with syncPending := true }) ∧
    (s.usb.inCallback ≠ some a → e.Synced (t.ep a)) := by
  have hn := State.num_ne_zero_of_cfg hc
  rw [State.syncOrDefer_eq]
  refine ⟨?_, fun b hb => State.ep_setEp_other _ _ hb, fun hin => ?_, fun hout => ?_⟩
  · rw [State.setEp_frame]
    rfl
  · rw [if_pos hin]
    exact State.ep_setEp_self _ _ hn
  · rw [if_neg hout]
    have hep : ((s.setEp a e.sync).answer .OK .unit).ep a = e.sync := State.ep_setEp_self _ _ hn
    rw [hep]
    exact e.sync_synced

/-- The outcome of such a command (R182, R183, R188, R189), whatever its look-up and the flag it changes. -/
theorem SetsFlag.outcome {legal : Bool} (h : SetsFlag i s op a r f) (hr : LooksUp s a r legal) :
    (legal = false → Faults .EP_NOT_CONFIGURED i s) ∧
    (legal = true → ∃ t, exec i s = .next t ∧
      t = { s with epOut := t.epOut, epIn := t.epIn, reply := .result .OK .unit } ∧
      (∀ b, b ≠ a → t.ep b = s.ep b) ∧
      (s.usb.inCallback = some a → t.ep a = { f (s.ep a) with syncPending := true }) ∧
      (s.usb.inCallback ≠ some a → (f (s.ep a)).Synced (t.ep a))) :=
  ⟨fun hl => faults_of_misuse h (except_map_eq_error.2 (hr.error hl)),
    fun hl => ⟨_, h.exec_eq (hr.ok hl), s.syncOrDefer_answered (hr.cfg hl) _⟩⟩

end

theorem setsFlag_epPause (s : State) (a : EpAddr) :
    SetsFlag (.epPause (epAddrToByte a)) s 0x34 a (s.epFor .OUT) fun e => { e with paused := true } := rfl

theorem setsFlag_epUnpause (s : State) (a : EpAddr) :
    SetsFlag (.epUnpause (epAddrToByte a)) s 0x35 a (s.epFor .OUT) fun e => { e with paused := false } := rfl

theorem setsFlag_epSetHalt (s : State) (a : EpAddr) :
    SetsFlag (.epSetHalt (epAddrToByte a)) s 0x36 a s.epAny fun e => { e with halt := true } := rfl

theorem setsFlag_epClearHalt (s : State) (a : EpAddr) :
    SetsFlag (.epClearHalt (epAddrToByte a)) s 0x37 a s.epAny fun e => { e with halt := false } := rfl

/-- Settles O40: the command's look-up is its legality; what it stores is synchronised at once or deferred. -/
theorem pauseAndHalt : Obligations.PauseAndHalt := by
  unfold Obligations.PauseAndHalt
  rintro s a i e legal (⟨rfl, ⟨rfl, rfl⟩ | ⟨rfl, rfl⟩⟩ | ⟨rfl, ⟨rfl, rfl⟩ | ⟨rfl, rfl⟩⟩)
  · exact (setsFlag_epPause s a).outcome (s.epFor_looksUp .OUT a)
  · exact (setsFlag_epUnpause s a).outcome (s.epFor_looksUp .OUT a)
  · exact (setsFlag_epSetHalt s a).outcome (s.epAny_looksUp a)
  · exact (setsFlag_epClearHalt s a).outcome (s.epAny_looksUp a)

/-! ## A callback without a packet (R190, R198) -/

/-- Two states whose endpoints from 1 on agree have the same banks. -/
theorem State.banks_eq {s t : State} (h : ∀ a, t.ep a = s.ep a) : t.epOut = s.epOut ∧ t.epIn = s.epIn := by
  have hbank : ∀ d (k : Nat) (hk : k < 7), (t.bank d)[k] = (s.bank d)[k] := by
    intro d k hk
    have ha := h ⟨d, ⟨k + 1, Nat.succ_lt_succ hk⟩⟩
    simpa [State.ep, hk] using ha
  exact ⟨Vector.ext fun k hk => hbank .OUT k hk, Vector.ext fun k hk => hbank .IN k hk⟩

/-- Where nothing waits for a synchronisation, none is made. -/
theorem State.syncAllPending_eq_self {s : State} (h : ∀ a, (s.ep a).syncPending = false) : s.syncAllPending = s := by
  have hep : ∀ a, s.syncAllPending.ep a = s.ep a := by
    intro a
    rw [State.ep_syncAllPending, h a]
    rfl
  obtain ⟨ho, hi⟩ := State.banks_eq hep
  change { s with epOut := s.syncAllPending.epOut, epIn := s.syncAllPending.epIn } = s
  rw [ho, hi]

section
variable {s : State} {a : EpAddr}

/-- A callback that changes nothing leaves the state as it was before it. -/
theorem State.leaveCallback_enterCallback (hc : s.usb.inCallback = none) (a : EpAddr) :
    (s.enterCallback a).leaveCallback = s := by
  change { s with usb := { s.usb with inCallback := none } } = s
  rw [← hc]

/-- The endpoint as its completion callback finds it: one interrupt less is pending (R198). -/
def Endpoint.irqTaken (e : Endpoint) : Endpoint := { e with irq := e.irq - 1 }

theorem State.usbIrq_eq (s : State) (a : EpAddr) :
    s.usbIrq a = (s.setEp a (s.ep a).irqTaken).dispatchCompletion a := rfl

/-- Taking a completion interrupt leaves nothing waiting for a synchronisation. -/
theorem State.EndpointInv.irqTaken_synced (hs : s.EndpointInv) (hc : (s.ep a).cfg = true) (b : EpAddr) :
    ((s.setEp a (s.ep a).irqTaken).ep b).syncPending = false := by
  have hu : s.EpUpdated (s.setEp a (s.ep a).irqTaken) a (s.ep a).irqTaken := .setEp (State.num_ne_zero_of_cfg hc) _
  by_cases hb : b = a
  · rw [hb, hu.here]
    exact (hs.eps a).synced
  · rw [hu.others b hb]
    exact (hs.eps b).synced

/-- The bulk OUT handler without a packet does nothing (44_cdc_bridge.md R287). -/
theorem State.onUsbDataReceived_idle (hin : s.usb.inCallback = some Config.epBulkOut)
    (hc : (s.ep Config.epBulkOut).cfg = true)
    (hf : ((s.ep Config.epBulkOut).slot (s.ep Config.epBulkOut).swIdx).state ≠ .FULL) :
    s.onUsbDataReceived = .ok s := by
  have hread : s.epReadPacket Config.epBulkOut Config.mpsBulk = .ok (s, none) :=
    State.epReadPacket_eq_ok.2 ⟨rfl, hc, hin, .inl ⟨hf, rfl, rfl⟩⟩
  simp only [State.onUsbDataReceived, hread]

/-- A callback whose handler finds no packet, or that has no handler, only takes its interrupt. -/
theorem State.EndpointInv.usbIrq_idle (hs : s.EndpointInv) (hc : (s.ep a).cfg = true)
    (hno : a ≠ Config.epBulkOut ∨ ((s.ep a).slot (s.ep a).swIdx).state ≠ .FULL) :
    s.usbIrq a = .ok (s.setEp a (s.ep a).irqTaken) := by
  have hhere := s.ep_setEp_self (s.ep a).irqTaken (State.num_ne_zero_of_cfg hc)
  have hsync := hs.irqTaken_synced hc
  have hcb : (s.setEp a (s.ep a).irqTaken).usb.inCallback = none := by rw [State.setEp_usb, hs.callback]
  have hhandler : (s.ep a).irqTaken.handler = handlerFor a := hs.handler a hc
  rw [State.usbIrq_eq]
  generalize s.setEp a (s.ep a).irqTaken = s1 at *
  have hrun : (s1.enterCallback a).runEpHandler (handlerFor a) = .ok (s1.enterCallback a) := by
    unfold handlerFor
    split
    · rename_i ha
      subst ha
      have hep : (s1.enterCallback Config.epBulkOut).ep Config.epBulkOut = (s.ep Config.epBulkOut).irqTaken := hhere
      refine State.onUsbDataReceived_idle rfl ?_ ?_ <;> rw [hep]
      · exact hc
      · exact hno.resolve_left fun h => h rfl
    · rfl
  rw [State.dispatchCompletion_eq_ok, hhere, hhandler]
  exact ⟨_, hrun, by rw [State.leaveCallback_enterCallback hcb, State.syncAllPending_eq_self hsync]⟩

end

/-- Settles O41: without a packet the callback only takes its interrupt, and no synchronisation waits for its end. -/
theorem evUsbIrq : Obligations.EvUsbIrq := by
  unfold Obligations.EvUsbIrq
  refine ⟨fun s a h => waits_of_notEnabled rfl ?_, fun s a hs hc hq hno => ?_⟩
  · rcases h with h | h <;> simp [Endpoint.irqEnabled, h]
  · have hx := exec_evUsbIrq (Endpoint.irqEnabled_iff.2 ⟨hc, hq⟩)
    rw [hs.usbIrq_idle hc hno] at hx
    refine ⟨_, hx, ?_, fun b hb => State.ep_setEp_other _ _ hb,
      State.ep_setEp_self _ _ (State.num_ne_zero_of_cfg hc)⟩
    rw [State.setEp_frame_out _ _ ((hs.eps a).dir_of_irq hq)]
    rfl

end Sys2Proof.Machine
end

section
/-! SUPPORT. An endpoint unpaused: what a pause, a packet read and a callback leave once it is (42_endpoint_engine.md
R183, R184, R186). -/

namespace Sys2Proof.Machine

/-! ## One endpoint -/

/-- `e` after EP_UNPAUSE outside its callback (R183). -/
def Endpoint.unpaused (e : Endpoint) : Endpoint := ({ e with paused := false } : Endpoint).sync

theorem Endpoint.unpaused_eq (e : Endpoint) : e.unpaused = { e with
    paused := false, slot0 := e.slot0.release, slot1 := if e.dbl then e.slot1.release else e.slot1
    hwstat := ({ e with paused := false } : Endpoint).wantStat, syncPending := false } := rfl

theorem Slot.release_release (sl : Slot) : sl.release.release = sl.release := by
  by_cases h : sl.state = .HELD
  · simp [h]
  · rw [Slot.release_other h, Slot.release_other h]

/-- A pause or an unpause, however synchronised, is forgotten by an unpause. -/
theorem Endpoint.unpaused_sync (e : Endpoint) (p : Bool) :
    ({ e with paused := p } : Endpoint).sync.unpaused = e.unpaused := by
  cases p with
  | true => rfl
  | false =>
    change e.unpaused.unpaused = e.unpaused
    simp only [Endpoint.unpaused_eq, Slot.release_release]
    cases e.dbl <;> simp [Endpoint.wantStat, Slot.release_release]

theorem Endpoint.unpaused_unpaused (e : Endpoint) : e.unpaused.unpaused = e.unpaused := e.unpaused_sync false

theorem Slot.release_cases (sl : Slot) :
    sl.release = sl ∨ (sl.state = .HELD ∧ sl.release = { sl with state := .FREE }) := by
  by_cases h : sl.state = .HELD
  · exact .inr ⟨h, Slot.release_held h⟩
  · exact .inl (Slot.release_other h)

/-- An unpause frees HELD slots, and touches no other. -/
theorem Endpoint.slot_unpaused_cases (e : Endpoint) (i : Fin 2) : e.unpaused.slot i = e.slot i ∨
    ((e.slot i).state = .HELD ∧ e.unpaused.slot i = { e.slot i with state := .FREE }) := by
  rw [Endpoint.unpaused_eq]
  unfold Endpoint.slot
  split
  · exact Slot.release_cases _
  · simp only
    split
    · exact Slot.release_cases _
    · exact .inl rfl

theorem Endpoint.slot_unpaused {e : Endpoint} {i : Fin 2} (h : (e.slot i).state = .FULL) :
    e.unpaused.slot i = e.slot i :=
  (e.slot_unpaused_cases i).resolve_right fun hh => by rw [h] at hh; exact nomatch hh.1

theorem Endpoint.slot_unpaused_full (e : Endpoint) (i : Fin 2) :
    (e.unpaused.slot i).state = .FULL ↔ (e.slot i).state = .FULL := by
  rcases e.slot_unpaused_cases i with h | ⟨hs, h⟩
  · rw [h]
  · rw [h, hs]
    exact ⟨nofun, nofun⟩

/-- An unpause after one of the `K` slots was rewritten frees that slot too, if it is HELD. -/
theorem Endpoint.unpaused_advance {e : Endpoint} {i : Fin 2} (sl : Slot) (hw sw : Fin 2) (q : Nat) (hi : e.hasSlot i) :
    (e.advance i sl hw sw q).unpaused = e.unpaused.advance i sl.release hw sw q := by
  simp only [Endpoint.advance_rest, Endpoint.unpaused_eq, Endpoint.setSlot]
  by_cases h0 : i = 0
  · simp only [h0, if_true]
    rfl
  · have hd : e.dbl = true := hi.resolve_left h0
    simp only [h0, if_false, hd, if_true]
    rfl

/-- A packet read leaves its slot FREE once the endpoint is unpaused, whether it was FREE or HELD before. -/
theorem Endpoint.unpaused_afterRead (e : Endpoint) : e.afterRead.unpaused =
    e.unpaused.advance e.swIdx { e.slot e.swIdx with state := .FREE } e.hwNext (e.succ e.swIdx) e.irq := by
  have hfree : ({ e.slot e.swIdx with state := if e.paused then .HELD else .FREE } : Slot).release =
      { e.slot e.swIdx with state := .FREE } := by
    cases e.paused <;> rfl
  rw [← hfree]
  exact Endpoint.unpaused_advance _ _ _ _ (e.hasSlot_wrap _)

/-- Whether an endpoint was unpaused before a packet was read does not matter to an unpause after it. -/
theorem Endpoint.afterRead_unpaused (e : Endpoint) : e.unpaused.afterRead.unpaused = e.afterRead.unpaused := by
  have hslot : ({ e.unpaused.slot e.swIdx with state := .FREE } : Slot) = { e.slot e.swIdx with state := .FREE } := by
    rcases e.slot_unpaused_cases e.swIdx with h | ⟨-, h⟩ <;> rw [h]
  rw [Endpoint.unpaused_afterRead, Endpoint.unpaused_afterRead, Endpoint.unpaused_unpaused, ← hslot]
  rfl

theorem Endpoint.eta_flags {e : Endpoint} (hp : e.paused = false) (hs : e.syncPending = false) :
    ({ e with paused := false, syncPending := false } : Endpoint) = e := by
  cases e
  cases hp
  cases hs
  rfl

/-- An endpoint that is not paused is already as an unpause leaves it. -/
theorem Endpoint.Inv.unpaused_eq_self {d : Dir} {e : Endpoint} (h : e.Inv d) (hp : e.paused = false) :
    e.unpaused = e := by
  have hfree : ∀ sl : Slot, (sl.state = .HELD → e.paused = true) → sl.release = sl := fun sl hh =>
    Slot.release_other fun hs => by rw [hh hs] at hp; cases hp
  have hself : ({ e with paused := false } : Endpoint) = e := by rw [← hp]
  rw [Endpoint.unpaused_eq, hself, ← h.stat, hfree _ h.held0, hfree _ h.held1, ite_self]
  exact Endpoint.eta_flags hp h.synced

/-! ## The state -/

section
variable {s t : State} {a : EpAddr}

theorem State.setEp_setEp (s : State) (a : EpAddr) (e r : Endpoint) : (s.setEp a e).setEp a r = s.setEp a r := by
  obtain ⟨d, ⟨n, hn⟩⟩ := a
  cases n with
  | zero => rfl
  | succ k => cases d <;> simp [State.setEp]

theorem State.setEp_ep (s : State) (a : EpAddr) : s.setEp a (s.ep a) = s := by
  have hep : ∀ b, (s.setEp a (s.ep a)).ep b = s.ep b := by
    intro b
    by_cases hb : b = a
    · by_cases hn : a.num.val = 0
      · rw [hb, State.ep_zero hn, State.ep_zero hn]
      · rw [hb, State.ep_setEp_self _ _ hn]
    · exact State.ep_setEp_other _ _ hb
  obtain ⟨ho, hi⟩ := State.banks_eq hep
  rw [State.setEp_frame, ho, hi]

theorem State.setEp_answer (s : State) (a : EpAddr) (e : Endpoint) (c : ResultCode) (v : Value) :
    (s.answer c v).setEp a e = (s.setEp a e).answer c v := by
  unfold State.setEp
  split <;> rfl

theorem State.setEp_enterCallback (s : State) (a b : EpAddr) (e : Endpoint) :
    (s.enterCallback b).setEp a e = (s.setEp a e).enterCallback b := by
  unfold State.setEp
  split <;> rfl

/-- UART_TRANSMIT neither reads nor writes an endpoint. -/
theorem State.uartTransmit_setEp (s : State) (a : EpAddr) (e : Endpoint) (d : List Byte) :
    ((s.setEp a e).uartTransmit d).1 = (s.uartTransmit d).1.setEp a e := by
  simp only [State.uartTransmit_fst]
  unfold State.setEp
  split <;> rfl

/-- `s` after EP_UNPAUSE of `a` between two steps (R183). -/
def State.unpaused (s : State) (a : EpAddr) : State := (s.setEp a (s.ep a).unpaused).answer .OK .unit

theorem State.ep_unpaused (hn : a.num.val ≠ 0) (s : State) : (s.unpaused a).ep a = (s.ep a).unpaused :=
  State.ep_setEp_self _ _ hn

theorem State.unpaused_reply (s : State) (a : EpAddr) (q : Reply) :
    ({ s with reply := q } : State).unpaused a = s.unpaused a := by
  unfold State.unpaused State.setEp
  split <;> rfl

theorem State.unpaused_setEp (hn : a.num.val ≠ 0) (s : State) (e : Endpoint) :
    (s.setEp a e).unpaused a = (s.setEp a e.unpaused).answer .OK .unit := by
  rw [State.unpaused, State.ep_setEp_self _ _ hn, State.setEp_setEp]

/-! ## A callback with a packet (44_cdc_bridge.md R287) -/

/-- `update_pause` never stops: the endpoint it pauses or unpauses is configured. -/
theorem State.updatePause_ok (s : State) : ∃ t, s.updatePause = .ok t := by
  unfold State.updatePause
  simp only
  split
  · exact ⟨_, rfl⟩
  rename_i hc
  have hfor : s.epFor .OUT Config.epBulkOut = .ok (s.ep Config.epBulkOut) :=
    State.epFor_eq_ok.2 ⟨rfl, by simpa using hc, rfl⟩
  split
  · rw [State.epPause, hfor]
    exact ⟨_, rfl⟩
  split
  · rw [State.epUnpause, hfor]
    exact ⟨_, rfl⟩
  · exact ⟨_, rfl⟩

/-- The deferred synchronisations, where at most the endpoint just stored waits for one. -/
theorem State.syncAllPending_setEp (hn : a.num.val ≠ 0) (h : ∀ b, b ≠ a → (s.ep b).syncPending = false)
    (e : Endpoint) : (s.setEp a e).syncAllPending = s.setEp a (if e.syncPending then e.sync else e) := by
  have hep : ∀ b, (s.setEp a e).syncAllPending.ep b = (s.setEp a (if e.syncPending then e.sync else e)).ep b := by
    intro b
    rw [State.ep_syncAllPending]
    by_cases hb : b = a
    · rw [hb, State.ep_setEp_self _ _ hn, State.ep_setEp_self _ _ hn]
    · rw [State.ep_setEp_other _ _ hb, State.ep_setEp_other _ _ hb, h b hb]
      rfl
  obtain ⟨ho, hi⟩ := State.banks_eq hep
  rw [State.setEp_frame s a (if e.syncPending then e.sync else e), ← ho, ← hi, State.setEp_frame s a e]
  rfl

/-- The bulk OUT handler, run in its endpoint's callback on a packet: the packet goes to the TX ring, its slot is
acknowledged, and a change of the pause waits for the end of the callback. -/
theorem State.onUsbDataReceived_packet {e : Endpoint} (he : s.ep Config.epBulkOut = e)
    (hin : s.usb.inCallback = some Config.epBulkOut) (hc : e.cfg = true) (hf : (e.slot e.swIdx).state = .FULL)
    (hl : (e.slot e.swIdx).len ≤ Config.mpsBulk)
    (hp : (e.slot e.swIdx).pma + (e.slot e.swIdx).len ≤ Config.pmaBytes) :
    ∃ r, s.onUsbDataReceived = .ok ((s.uartTransmit (s.slotBytes (e.slot e.swIdx))).1.setEp Config.epBulkOut r) ∧
      (r = e.afterRead ∨ ∃ p, r = { e.afterRead with paused := p, syncPending := true }) := by
  subst he
  have hn : Config.epBulkOut.num.val ≠ 0 := by decide
  have hread := State.epReadPacket_eq_ok.2 ⟨rfl, hc, hin, .inr ⟨hf, hl, hp, rfl, rfl⟩⟩
  rw [Endpoint.afterRead_eq] at hread
  rw [State.onUsbDataReceived, hread]
  simp only [State.uartTransmit_setEp]
  generalize hu : (s.uartTransmit (s.slotBytes ((s.ep Config.epBulkOut).slot (s.ep Config.epBulkOut).swIdx))).1 = u
  have hcb : (u.setEp Config.epBulkOut (s.ep Config.epBulkOut).afterRead).usb.inCallback = some Config.epBulkOut := by
    rw [State.setEp_usb, ← hu, State.uartTransmit_fst]
    exact hin
  obtain ⟨t, ht⟩ := State.updatePause_ok (u.setEp Config.epBulkOut (s.ep Config.epBulkOut).afterRead)
  rcases State.updatePause_inCallback hcb ht with rfl | ⟨p, rfl⟩
  · exact ⟨_, ht, .inl rfl⟩
  · rw [State.setEp_setEp, State.ep_setEp_self _ _ hn] at ht
    exact ⟨_, ht, .inr ⟨p, rfl⟩⟩

/-- What the handler leaves of its endpoint is, once synchronised and unpaused, the endpoint whose packet was read. -/
theorem Endpoint.unpaused_afterCallback {e r : Endpoint} (hs : e.syncPending = false)
    (hr : r = e.afterRead ∨ ∃ p, r = { e.afterRead with paused := p, syncPending := true }) :
    (if r.syncPending then r.sync else r).unpaused = e.afterRead.unpaused := by
  rcases hr with rfl | ⟨p, rfl⟩
  · rw [Endpoint.afterRead_syncPending, hs]
    rfl
  · rw [if_pos rfl, Endpoint.sync_of_pending { e.afterRead with paused := p } true, Endpoint.unpaused_sync]

/-- The end of a callback that stored its endpoint again: the endpoint is synchronised if it waits for that. -/
theorem State.syncAllPending_callback {u : State} (hn : a.num.val ≠ 0) (hc : u.usb.inCallback = none)
    (hs : ∀ b, (u.ep b).syncPending = false) (e r : Endpoint) :
    (((u.setEp a e).enterCallback a).setEp a r).leaveCallback.syncAllPending =
      u.setEp a (if r.syncPending then r.sync else r) := by
  rw [State.setEp_enterCallback, State.setEp_setEp, State.leaveCallback_enterCallback (by rw [State.setEp_usb, hc]),
    State.syncAllPending_setEp hn fun b _ => hs b]

/-- The bulk OUT callback on a packet: the packet goes to the TX ring, and the endpoint it leaves is, once unpaused, the
endpoint whose packet was read. -/
theorem State.EndpointInv.usbIrq_packet {e : Endpoint} (hs : s.EndpointInv) (he : s.ep Config.epBulkOut = e)
    (hc : e.cfg = true) (hf : (e.slot e.swIdx).state = .FULL) :
    ∃ r, s.usbIrq Config.epBulkOut =
        .ok ((s.uartTransmit (s.slotBytes (e.slot e.swIdx))).1.setEp Config.epBulkOut r) ∧
      r.unpaused = e.irqTaken.afterRead.unpaused := by
  have hn : Config.epBulkOut.num.val ≠ 0 := by decide
  have hinv : e.Inv .OUT := he ▸ hs.eps Config.epBulkOut
  have hlen : (e.slot e.swIdx).len ≤ Config.mpsBulk :=
    ((hinv.slotOk _).len.trans hinv.mps_le).trans (by cases e.type <;> decide)
  have hfit : (e.slot e.swIdx).pma + (e.slot e.swIdx).len ≤ Config.pmaBytes := by
    subst he
    exact hs.packetsFit Config.epBulkOut hc _ (Endpoint.hasSlot_wrap _ _)
  have hhandler : e.irqTaken.handler = some .onUsbDataReceived := by
    subst he
    exact hs.handler Config.epBulkOut hc
  generalize ht : (s.uartTransmit (s.slotBytes (e.slot e.swIdx))).1 = t
  have hframe := State.uartTransmit_fst s (s.slotBytes (e.slot e.swIdx))
  rw [ht] at hframe
  have htcb : t.usb.inCallback = none := by rw [hframe]; exact hs.callback
  have hsync : ∀ b, (t.ep b).syncPending = false := fun b => by
    rw [show t.ep b = s.ep b by rw [hframe]; exact State.ep_congr rfl rfl b]
    exact (hs.eps b).synced
  generalize hv : (s.setEp Config.epBulkOut e.irqTaken).enterCallback Config.epBulkOut = v
  have hhere : v.ep Config.epBulkOut = e.irqTaken := by rw [← hv]; exact s.ep_setEp_self _ hn
  have hcb : v.usb.inCallback = some Config.epBulkOut := by rw [← hv]; rfl
  have hsent : (v.uartTransmit (v.slotBytes (e.irqTaken.slot e.irqTaken.swIdx))).1 =
      (t.setEp Config.epBulkOut e.irqTaken).enterCallback Config.epBulkOut := by
    rw [← hv, ← ht, ← State.uartTransmit_setEp, State.uartTransmit_fst, State.uartTransmit_fst]
    rfl
  obtain ⟨r, hrun, hr⟩ := State.onUsbDataReceived_packet hhere hcb hc hf hlen hfit
  refine ⟨_, ?_, Endpoint.unpaused_afterCallback hinv.synced hr⟩
  rw [hsent] at hrun
  rw [State.usbIrq_eq, he, State.dispatchCompletion_eq_ok, hv, s.ep_setEp_self _ hn, hhandler]
  exact ⟨_, hrun, (State.syncAllPending_callback hn htcb hsync _ _).symm⟩

end

end Sys2Proof.Machine
end

section
/-! PROOF. Pausing leaves no trace: a sequence of events with pauses and unpauses in it, and the same without them, run through
states that an unpause makes equal (O44). -/

namespace Sys2Proof.Machine

section
variable {i : Instr} {is : List Instr} {s t u v : State} {a : EpAddr}

/-! ## One operation, and an unpause after it -/

theorem State.EndpointInv.syncOrDefer_eq (hs : s.EndpointInv) (e : Endpoint) : s.syncOrDefer a e = s.setEp a e.sync := by
  rw [State.syncOrDefer_eq, if_neg (by rw [hs.callback]; simp)]

theorem exec_epPause (hs : s.EndpointInv) (hd : a.dir = .OUT) (hc : (s.ep a).cfg = true) :
    exec (.epPause (epAddrToByte a)) s =
      .next ((s.setEp a ({ s.ep a with paused := true } : Endpoint).sync).answer .OK .unit) := by
  rw [(setsFlag_epPause s a).exec_eq (State.epFor_eq_ok.2 ⟨hd, hc, rfl⟩), hs.syncOrDefer_eq]

theorem exec_epUnpause (hs : s.EndpointInv) (hd : a.dir = .OUT) (hc : (s.ep a).cfg = true) :
    exec (.epUnpause (epAddrToByte a)) s = .next (s.unpaused a) := by
  rw [(setsFlag_epUnpause s a).exec_eq (State.epFor_eq_ok.2 ⟨hd, hc, rfl⟩), hs.syncOrDefer_eq]
  rfl

/-- What EV_USB_IRQ and an unpause leave: the interrupt taken and, on the bulk OUT endpoint, the packet read and sent. -/
def State.afterIrq (s : State) (a : EpAddr) : State :=
  let e := s.ep a
  if e.irq = 0 then s.unpaused a
  else if a = Config.epBulkOut ∧ (e.slot e.swIdx).state = .FULL then
    ((s.uartTransmit (s.slotBytes (e.slot e.swIdx))).1.setEp a e.irqTaken.afterRead.unpaused).answer .OK .unit
  else (s.setEp a e.irqTaken.unpaused).answer .OK .unit

/-- EV_USB_IRQ gives a next state without a fault, enabled or not. -/
theorem State.EndpointInv.exec_evUsbIrq_next (hs : s.EndpointInv) (hc : (s.ep a).cfg = true) :
    ∃ t, exec (.evUsbIrq (epAddrToByte a)) s = .next t ∧ t.fault = s.fault ∧ t.unpaused a = s.afterIrq a := by
  have hn := State.num_ne_zero_of_cfg hc
  unfold State.afterIrq
  by_cases hq : (s.ep a).irq = 0
  · refine ⟨s.waits, waits_of_notEnabled rfl (by simp [Endpoint.irqEnabled, hq]), rfl, ?_⟩
    rw [if_pos hq]
    exact s.unpaused_reply a .notEnabled
  have hx := exec_evUsbIrq (Endpoint.irqEnabled_iff.2 ⟨hc, Nat.pos_of_ne_zero hq⟩)
  simp only [if_neg hq]
  by_cases hp : a = Config.epBulkOut ∧ ((s.ep a).slot (s.ep a).swIdx).state = .FULL
  · rw [if_pos hp]
    obtain ⟨rfl, hf⟩ := hp
    obtain ⟨r, hr, hru⟩ := hs.usbIrq_packet rfl hc hf
    rw [hr] at hx
    refine ⟨_, hx, ?_, ?_⟩
    · rw [State.taken_fault, State.setEp_fault, State.uartTransmit_fst]
    · rw [← hru, ← State.unpaused_setEp hn]
      exact State.unpaused_reply _ _ .event
  · rw [if_neg hp]
    rw [hs.usbIrq_idle hc (not_and_or.1 hp)] at hx
    refine ⟨_, hx, by rw [State.taken_fault, State.setEp_fault], ?_⟩
    rw [← State.unpaused_setEp hn]
    exact State.unpaused_reply _ _ .event

theorem State.unpaused_unpaused (hn : a.num.val ≠ 0) (s : State) : (s.unpaused a).unpaused a = s.unpaused a := by
  rw [State.unpaused, State.ep_unpaused hn, State.unpaused, State.setEp_answer, State.setEp_setEp,
    Endpoint.unpaused_unpaused]
  rfl

/-- Whether the endpoint was unpaused before the interrupt does not matter to an unpause after it. -/
theorem State.afterIrq_unpaused (hn : a.num.val ≠ 0) (s : State) : (s.unpaused a).afterIrq a = s.afterIrq a := by
  have hread : (s.ep a).unpaused.irqTaken.afterRead.unpaused = (s.ep a).irqTaken.afterRead.unpaused :=
    (s.ep a).irqTaken.afterRead_unpaused
  have hidle : (s.ep a).unpaused.irqTaken.unpaused = (s.ep a).irqTaken.unpaused := (s.ep a).irqTaken.unpaused_unpaused
  have hfull : (((s.ep a).unpaused.slot (s.ep a).unpaused.swIdx).state = .FULL) =
      (((s.ep a).slot (s.ep a).swIdx).state = .FULL) := propext ((s.ep a).slot_unpaused_full _)
  unfold State.afterIrq
  simp only [State.ep_unpaused hn, hread, hidle, hfull]
  by_cases hq : (s.ep a).irq = 0
  · rw [if_pos hq, if_pos (show (s.ep a).unpaused.irq = 0 from hq), State.unpaused_unpaused hn]
  rw [if_neg hq, if_neg (show ¬ (s.ep a).unpaused.irq = 0 from hq)]
  by_cases hp : a = Config.epBulkOut ∧ ((s.ep a).slot (s.ep a).swIdx).state = .FULL
  · have hslot : (s.unpaused a).slotBytes ((s.ep a).unpaused.slot (s.ep a).unpaused.swIdx) =
        s.slotBytes ((s.ep a).slot (s.ep a).swIdx) := by
      rw [show (s.ep a).unpaused.swIdx = (s.ep a).swIdx from rfl, Endpoint.slot_unpaused hp.2]
      simp [State.slotBytes, State.unpaused]
    have hsend : ∀ b, ((s.unpaused a).uartTransmit b).1 =
        ((s.uartTransmit b).1.setEp a (s.ep a).unpaused).answer .OK .unit := fun b => by
      rw [← State.uartTransmit_setEp, State.uartTransmit_fst, State.uartTransmit_fst]
      rfl
    rw [if_pos hp, if_pos hp, hslot, hsend, State.setEp_answer, State.setEp_setEp]
    rfl
  · rw [if_neg hp, if_neg hp, State.unpaused, State.setEp_answer, State.setEp_setEp]
    rfl

theorem State.afterIrq_cfg (hn : a.num.val ≠ 0) (s : State) : ((s.afterIrq a).ep a).cfg = (s.ep a).cfg := by
  have hstored : ∀ (u : State) (r : Endpoint), ((u.setEp a r).answer .OK .unit).ep a = r := fun u r =>
    State.ep_setEp_self u r hn
  have hread : (s.ep a).irqTaken.SameLayout (s.ep a).irqTaken.afterRead := Endpoint.sameLayout_advance rfl
  unfold State.afterIrq
  simp only
  split
  · rw [State.ep_unpaused hn]
    rfl
  split
  · rw [hstored]
    exact hread.cfg
  · rw [hstored]
    rfl

/-- A pause or an unpause gives a next state that an unpause makes the same. -/
theorem State.EndpointInv.exec_pause_next (hs : s.EndpointInv) (hd : a.dir = .OUT) (hc : (s.ep a).cfg = true)
    (hi : i = .epPause (epAddrToByte a) ∨ i = .epUnpause (epAddrToByte a)) :
    ∃ t, exec i s = .next t ∧ t.fault = s.fault ∧ (t.ep a).cfg = true ∧ t.unpaused a = s.unpaused a := by
  have hn := State.num_ne_zero_of_cfg hc
  rcases hi with rfl | rfl
  · refine ⟨_, exec_epPause hs hd hc, ?_, ?_, ?_⟩
    · rw [State.answer_fault, State.setEp_fault]
    · exact (congrArg Endpoint.cfg (State.ep_setEp_self s _ hn)).trans hc
    · refine (State.unpaused_reply _ a (.result .OK .unit)).trans ((State.unpaused_setEp hn s _).trans ?_)
      rw [Endpoint.unpaused_sync]
      rfl
  · refine ⟨_, exec_epUnpause hs hd hc, ?_, ?_, State.unpaused_unpaused hn s⟩
    · rw [State.unpaused, State.answer_fault, State.setEp_fault]
    · exact (congrArg Endpoint.cfg (State.ep_unpaused hn s)).trans hc

/-- Such a command ends without a fault only on a configured OUT endpoint. -/
theorem SetsFlag.legal {op : Byte} {r : EpAddr → Except Stop Endpoint} {f : Endpoint → Endpoint} {legal : Bool}
    (h : SetsFlag i s op a r f) (hr : LooksUp s a r legal) (hx : exec i s = .next t) (hf : t.fault = none) :
    legal = true := by
  rw [← Bool.not_eq_false]
  intro hl
  rw [(h.outcome hr).1 hl] at hx
  cases hx
  cases hf

theorem outEndpoint_of_pause (hi : i = .epPause (epAddrToByte a) ∨ i = .epUnpause (epAddrToByte a))
    (hx : exec i s = .next t) (hf : t.fault = none) : a.dir = .OUT ∧ (s.ep a).cfg = true := by
  have hlegal : (decide (a.dir = .OUT) && (s.ep a).cfg) = true := by
    rcases hi with rfl | rfl
    · exact (setsFlag_epPause s a).legal (s.epFor_looksUp .OUT a) hx hf
    · exact (setsFlag_epUnpause s a).legal (s.epFor_looksUp .OUT a) hx hf
  simpa using hlegal

/-- An endpoint event that is taken was enabled. -/
theorem enabled_of_taken {op : Byte} {enabled : EpAddr → Bool} {o : EpAddr → Host.Outcome State Fault Refusal}
    (hi : exec i s = s.withEp op (epAddrToByte a) fun b => if enabled b then o b else .next s.waits)
    (hx : exec i s = .next t) (ht : t.reply ≠ .notEnabled) : enabled a = true := by
  rw [← Bool.not_eq_false]
  intro he
  rw [waits_of_notEnabled hi he] at hx
  cases hx
  exact ht rfl

theorem State.epOutPacket_answer (s : State) (a : EpAddr) (data : List Byte) (c : ResultCode) (v : Value) :
    (s.answer c v).epOutPacket a data = (s.epOutPacket a data).map (·.answer c v) := by
  have hep : (s.answer c v).ep a = s.ep a := rfl
  simp only [State.epOutPacket, hep]
  split
  · rfl
  · exact congrArg Except.ok (State.setEp_answer { s with pma := _ } a _ c v)

/-- EV_EP_OUT does not read the reply of the operation before it. -/
theorem exec_evEpOut_answer {data : List Byte} (he : (s.ep a).outEnabled data.length = true) (c : ResultCode)
    (v : Value) : exec (.evEpOut (epAddrToByte a) data) (s.answer c v) = exec (.evEpOut (epAddrToByte a) data) s := by
  have hep : (s.answer c v).ep a = s.ep a := rfl
  rw [exec_evEpOut he, exec_evEpOut (hep ▸ he), State.epOutPacket_answer]
  cases s.epOutPacket a data with
  | error x => cases x <;> rfl
  | ok t => rfl

/-! ## Two runs -/

/-- Two states between steps that an unpause of `a` makes equal. -/
structure State.Twins (a : EpAddr) (s u : State) : Prop where
  left : s.EndpointInv
  right : u.EndpointInv
  same : s.unpaused a = u.unpaused a

theorem exec_keeps_endpoints (h : exec i s = .next t) (hs : s.EndpointInv) : t.EndpointInv :=
  (exec_changes h).keeps_endpoints hs

theorem State.Twins.cfg (h : State.Twins a s u) (hc : (s.ep a).cfg = true) : (u.ep a).cfg = true := by
  by_cases hn : a.num.val = 0
  · exact absurd hn (State.num_ne_zero_of_cfg hc)
  · have hep : (s.ep a).unpaused = (u.ep a).unpaused := by
      rw [← State.ep_unpaused hn, h.same, State.ep_unpaused hn]
    exact (congrArg Endpoint.cfg hep).symm.trans hc

theorem State.Twins.fault (h : State.Twins a s u) : u.fault = s.fault := by
  have hf := congrArg State.fault h.same
  simpa [State.unpaused] using hf.symm

/-- A pause or an unpause in one run. -/
theorem State.Twins.pause (h : State.Twins a s u) (hd : a.dir = .OUT) (hc : (s.ep a).cfg = true)
    (hi : i = .epPause (epAddrToByte a) ∨ i = .epUnpause (epAddrToByte a)) :
    ∃ t, exec i s = .next t ∧ t.fault = s.fault ∧ (t.ep a).cfg = true ∧ State.Twins a t u := by
  obtain ⟨t, hx, hf, hct, hsame⟩ := h.left.exec_pause_next hd hc hi
  exact ⟨t, hx, hf, hct, exec_keeps_endpoints hx h.left, h.right, hsame.trans h.same⟩

/-- EV_USB_IRQ in both runs. -/
theorem State.Twins.irq (h : State.Twins a s u) (hc : (s.ep a).cfg = true) :
    ∃ t v, exec (.evUsbIrq (epAddrToByte a)) s = .next t ∧ exec (.evUsbIrq (epAddrToByte a)) u = .next v ∧
      t.fault = s.fault ∧ (t.ep a).cfg = true ∧ State.Twins a t v := by
  have hn := State.num_ne_zero_of_cfg hc
  obtain ⟨t, hxs, hfs, hts⟩ := h.left.exec_evUsbIrq_next hc
  obtain ⟨v, hxu, -, hvu⟩ := h.right.exec_evUsbIrq_next (h.cfg hc)
  have hct : (t.ep a).cfg = (s.ep a).cfg := by
    have hcfg := s.afterIrq_cfg hn
    rwa [← hts, State.ep_unpaused hn] at hcfg
  refine ⟨t, v, hxs, hxu, hfs, hct.trans hc, exec_keeps_endpoints hxs h.left, exec_keeps_endpoints hxu h.right, ?_⟩
  rw [hts, hvu, ← State.afterIrq_unpaused hn s, h.same, State.afterIrq_unpaused hn u]

/-- An endpoint that is VALID is not paused, so an unpause only answers. -/
theorem State.EndpointInv.unpaused_of_outEnabled {n : Nat} (hs : s.EndpointInv) (he : (s.ep a).outEnabled n = true) :
    s.unpaused a = s.answer .OK .unit := by
  obtain ⟨hc, hv, -, -⟩ := Endpoint.outEnabled_iff.1 he
  have hp : (s.ep a).paused = false := by
    have hstat := (hs.eps a).stat
    rw [hv, Endpoint.wantStat, hc] at hstat
    rw [← Bool.not_eq_true]
    intro hp
    cases hh : (s.ep a).halt <;> simp [hh, hp] at hstat
  rw [State.unpaused, (hs.eps a).unpaused_eq_self hp, State.setEp_ep]

/-- EV_EP_OUT, enabled in both runs, does the same in both. -/
theorem State.Twins.landing {data : List Byte} (h : State.Twins a s u)
    (hes : (s.ep a).outEnabled data.length = true) (heu : (u.ep a).outEnabled data.length = true) :
    exec (.evEpOut (epAddrToByte a) data) s = exec (.evEpOut (epAddrToByte a) data) u := by
  rw [← exec_evEpOut_answer hes .OK .unit, ← h.left.unpaused_of_outEnabled hes, h.same,
    h.right.unpaused_of_outEnabled heu, exec_evEpOut_answer heu]

theorem execAll_cons (hx : exec i s = .next t) (hf : t.fault = none) : execAll (i :: is) s = execAll is t := by
  simp only [execAll, hx, if_pos hf]

theorem execTaken_cons_eq_some (h : execTaken (i :: is) s = some v) :
    ∃ t, exec i s = .next t ∧ t.fault = none ∧ t.reply ≠ .notEnabled ∧ execTaken is t = some v := by
  unfold execTaken at h
  split at h
  · rename_i t hx
    split at h
    · rename_i ht
      exact ⟨t, hx, ht.1, ht.2, h⟩
    · cases h
  · cases h

/-- Callbacks with pauses and unpauses, and the callbacks alone, both ended by an unpause. -/
theorem State.Twins.execAll_agree (hd : a.dir = .OUT) : ∀ {s u : State}, State.Twins a s u → (s.ep a).cfg = true →
    s.fault = none → (∀ i ∈ is, i = .evUsbIrq (epAddrToByte a) ∨ i = .epPause (epAddrToByte a) ∨
      i = .epUnpause (epAddrToByte a)) →
    ∃ t, execAll (is ++ [.epUnpause (epAddrToByte a)]) s = some t ∧
      execAll (is.filter (fun i => decide (i = .evUsbIrq (epAddrToByte a))) ++ [.epUnpause (epAddrToByte a)]) u =
        some t := by
  induction is with
  | nil =>
    intro s u h hc hf _
    have hfs : (s.unpaused a).fault = none := by simpa [State.unpaused] using hf
    refine ⟨s.unpaused a, execAll_cons (exec_epUnpause h.left hd hc) hfs, ?_⟩
    rw [h.same] at hfs ⊢
    exact execAll_cons (exec_epUnpause h.right hd (h.cfg hc)) hfs
  | cons i is ih =>
    intro s u h hc hf hall
    have hrest := fun j hj => hall j (List.mem_cons_of_mem i hj)
    rcases hall i List.mem_cons_self with rfl | hi
    · obtain ⟨t, v, hxs, hxu, hft, hct, htwins⟩ := h.irq hc
      have hfv : v.fault = none := by rw [htwins.fault, hft, hf]
      obtain ⟨w, hw1, hw2⟩ := ih htwins hct (hft.trans hf) hrest
      refine ⟨w, (execAll_cons hxs (hft.trans hf)).trans hw1, ?_⟩
      rw [List.filter_cons_of_pos (by simp)]
      exact (execAll_cons hxu hfv).trans hw2
    · obtain ⟨t, hx, hft, hct, htwins⟩ := h.pause hd hc hi
      obtain ⟨w, hw1, hw2⟩ := ih htwins hct (hft.trans hf) hrest
      refine ⟨w, (execAll_cons hx (hft.trans hf)).trans hw1, ?_⟩
      rwa [List.filter_cons_of_neg (by rcases hi with rfl | rfl <;> simp)]

/-- The last unpause of two runs that were taken to their ends. -/
theorem State.Twins.unpause_agree (h : State.Twins a s u) (hs : execTaken [.epUnpause (epAddrToByte a)] s = some t)
    (hu : execTaken [.epUnpause (epAddrToByte a)] u = some v) : t = v := by
  obtain ⟨t', hxs, hfs, -, ht⟩ := execTaken_cons_eq_some hs
  obtain ⟨v', hxu, -, -, hv⟩ := execTaken_cons_eq_some hu
  obtain ⟨hd, hc⟩ := outEndpoint_of_pause (.inr rfl) hxs hfs
  rw [exec_epUnpause h.left hd hc] at hxs
  rw [exec_epUnpause h.right hd (h.cfg hc)] at hxu
  cases hxs
  cases hxu
  rw [h.same] at ht
  exact Option.some.inj (ht.symm.trans hv)

/-- Two runs of which every event is taken, one with pauses and unpauses and one without, agree once unpaused. -/
theorem State.Twins.execTaken_agree : ∀ {s u : State}, State.Twins a s u →
    (∀ i ∈ is, i = .evUsbIrq (epAddrToByte a) ∨ i = .epPause (epAddrToByte a) ∨ i = .epUnpause (epAddrToByte a) ∨
      ∃ d, i = .evEpOut (epAddrToByte a) d) →
    execTaken (is ++ [.epUnpause (epAddrToByte a)]) s = some t →
    execTaken (is.filter (fun i => decide (i ≠ .epPause (epAddrToByte a) ∧ i ≠ .epUnpause (epAddrToByte a))) ++
      [.epUnpause (epAddrToByte a)]) u = some v → t = v := by
  induction is with
  | nil => exact fun h _ hs hu => h.unpause_agree hs hu
  | cons i is ih =>
    intro s u h hall hs hu
    have hrest := fun j hj => hall j (List.mem_cons_of_mem i hj)
    obtain ⟨s', hxs, hfs, hqs, hs'⟩ := execTaken_cons_eq_some hs
    have hpause : i = .epPause (epAddrToByte a) ∨ i = .epUnpause (epAddrToByte a) → t = v := by
      intro hi
      obtain ⟨hd, hc⟩ := outEndpoint_of_pause hi hxs hfs
      obtain ⟨w, hx, -, -, htwins⟩ := h.pause hd hc hi
      cases hxs.symm.trans hx
      rw [List.filter_cons_of_neg (by rcases hi with rfl | rfl <;> simp)] at hu
      exact ih htwins hrest hs' hu
    rcases hall i List.mem_cons_self with rfl | hi | hi | ⟨d, rfl⟩
    · rw [List.filter_cons_of_pos (by simp)] at hu
      obtain ⟨u', hxu, -, -, hu'⟩ := execTaken_cons_eq_some hu
      have hc := (Endpoint.irqEnabled_iff.1 (enabled_of_taken rfl hxs hqs)).1
      obtain ⟨w, x, hw, hx, -, -, htwins⟩ := h.irq hc
      cases hxs.symm.trans hw
      cases hxu.symm.trans hx
      exact ih htwins hrest hs' hu'
    · exact hpause (.inl hi)
    · exact hpause (.inr hi)
    · rw [List.filter_cons_of_pos (by simp)] at hu
      obtain ⟨u', hxu, -, hqu, hu'⟩ := execTaken_cons_eq_some hu
      have hsame := h.landing (enabled_of_taken rfl hxs hqs) (enabled_of_taken rfl hxu hqu)
      cases hxs.symm.trans (hsame.trans hxu)
      have hinv := exec_keeps_endpoints hxs h.left
      exact ih ⟨hinv, hinv, rfl⟩ hrest hs' hu'

end

/-- Settles O44: each operation, with an unpause after it, depends only on what an unpause leaves of the state before it. -/
theorem pauseLeavesNoTrace : Obligations.PauseLeavesNoTrace := by
  unfold Obligations.PauseLeavesNoTrace
  refine ⟨fun s is hs hf hc hall => ?_, fun s t u a is hs => ?_⟩
  · exact State.Twins.execAll_agree (a := Config.epBulkOut) rfl ⟨hs.endpoints, hs.endpoints, rfl⟩ hc hf hall
  · intro b hall ht hu
    exact State.Twins.execTaken_agree ⟨hs.endpoints, hs.endpoints, rfl⟩ hall ht hu

end Sys2Proof.Machine
end

section
/-! SUPPORT. Control dispatch: what it writes of the control context, and how it can stop (43_control_transfer.md R223-R225;
60_exceptions.md R328). -/

namespace Sys2Proof.Machine

section
variable {s t : State} {req : Request} {data : List Byte} {r : HandlerResult}

/-! ## The control context -/

theorem State.abortChunk_ctrl (h : s.abortChunk = .ok t) : t.ctrl = s.ctrl := by
  rcases State.abortChunk_eq_ok.1 h with ⟨-, rfl⟩ | ⟨-, -, rfl⟩ <;> rfl

theorem State.epSetup_ctrl {a : EpAddr} {n : Nat} {ty : EpType} (h : s.epSetup a n ty = .ok t) : t.ctrl = s.ctrl := by
  obtain ⟨-, -, -, rfl⟩ := State.epSetup_eq_ok.1 h
  simp

theorem State.setConfig_ctrl (h : s.setConfig = .ok t) : t.ctrl = s.ctrl := by
  obtain ⟨s1, s2, s3, s4, h1, h2, h3, h4, rfl⟩ := State.setConfig_eq_ok.1 h
  obtain ⟨u, hu, rfl⟩ := except_map_eq_ok.1 h4
  calc u.ctrl = s3.ctrl := State.abortChunk_ctrl hu
    _ = s2.ctrl := State.epSetup_ctrl h3
    _ = s1.ctrl := State.epSetup_ctrl h2
    _ = s.ctrl := State.epSetup_ctrl h1

theorem State.setConfiguration_ctrl (h : s.setConfiguration req = .ok (t, r)) : t.ctrl = s.ctrl := by
  rcases State.setConfiguration_eq_ok h with ⟨-, -, rfl, -⟩ | ⟨-, -, rfl⟩ | ⟨-, -, hc⟩
  · rfl
  · rfl
  · exact (State.setConfig_ctrl hc).trans rfl

theorem State.epFeature_ctrl {set : Bool} (h : s.epFeature set req = .ok (t, r)) : t.ctrl = s.ctrl := by
  rcases State.epFeature_eq_ok h with ⟨rfl, -⟩ | ⟨-, a, -, -, rfl⟩
  · rfl
  · rw [State.syncOrDefer_eq]
    exact State.setEp_ctrl _ _ _

theorem State.cdc_ctrl (s : State) (req : Request) (data : List Byte) : (s.cdc req data).1.ctrl = s.ctrl := by
  rcases s.cdc_cases req data with h | h | h | h | ⟨c, -, -, -, h⟩ <;> rw [h]
  rfl

/-- The request is SET_ADDRESS of an address that R245 accepts. -/
def Request.setsAddress (req : Request) : Prop :=
  req.bmRequestType = 0x00 ∧ req.bRequest = 5 ∧ req.wValue.toNat ≤ 127 ∧ req.wLength = 0

/-- SET_ADDRESS is an OUT request. -/
theorem Request.setsAddress.dirIn (h : req.setsAddress) : req.dirIn = false := by
  rw [Request.dirIn, h.1]
  rfl

/-- Of the control context, dispatch writes the latch of SET_ADDRESS only. -/
theorem State.dispatchRequest_ctrl (h : s.dispatchRequest req data = .ok (t, r)) :
    t.ctrl = s.ctrl ∨
    (req.setsAddress ∧ t.ctrl = { s.ctrl with onDone := some (.setAddress (req.wValue.extractLsb' 0 7)) }) := by
  rw [State.dispatchRequest_eq] at h
  split at h
  · have ht : (s.cdc req data).1 = t := by rw [Except.ok.inj h]
    exact .inl (ht ▸ s.cdc_ctrl req data)
  · rcases State.standard_eq_ok h with rfl | ⟨-, set, hf⟩ | ⟨hty, hrq, hv, hw, -, rfl⟩ | ⟨-, -, hc⟩
    · exact .inl rfl
    · exact .inl (State.epFeature_ctrl hf)
    · exact .inr ⟨⟨hty, hrq, hv, hw⟩, rfl⟩
    · exact .inl (State.setConfiguration_ctrl hc)

/-- Dispatch keeps the SETUP bytes, and so the request. -/
theorem State.dispatchRequest_setup (h : s.dispatchRequest req data = .ok (t, r)) : t.ctrl.setup = s.ctrl.setup := by
  rcases State.dispatchRequest_ctrl h with h | ⟨-, h⟩ <;> rw [h]

theorem State.dispatchRequest_request (h : s.dispatchRequest req data = .ok (t, r)) : t.request = s.request :=
  congrArg requestOf (State.dispatchRequest_setup h)

end
end Sys2Proof.Machine
end

section
/-! PROOF. Every step keeps the control context's invariant (O12). -/

namespace Sys2Proof.Machine

section
variable {i : Instr} {s t : State} {c : Ctrl} {req : Request} {data : List Byte} {r : HandlerResult}

/-- The invariant speaks of the control context only. -/
theorem State.ControlInv.congr (hs : s.ControlInv) (h : t.ctrl = s.ctrl) : t.ControlInv := by
  constructor <;> simp only [State.request, h]
  exacts [hs.loaded, hs.cursor_le, hs.out_cap, hs.onDone, hs.in0_len, hs.in0_le, hs.resp, hs.declared, hs.more, hs.last]

/-- The clauses of the invariant that do not depend on the state of the control machine. -/
structure Ctrl.Bounds (c : Ctrl) : Prop where
  cursor_le : c.cursor ≤ c.length
  in0_len : c.in0Len = c.in0Data.length
  in0_le : c.in0Len ≤ Config.mps0

theorem State.ControlInv.bounds (hs : s.ControlInv) : s.ctrl.Bounds := ⟨hs.cursor_le, hs.in0_len, hs.in0_le⟩

theorem Ctrl.Bounds.data_le (hc : c.Bounds) : c.in0Data.length ≤ Config.mps0 := hc.in0_len ▸ hc.in0_le

/-- The control context while a request is served: an address may be latched for an OUT request only. -/
structure Ctrl.Serving (c : Ctrl) : Prop extends c.Bounds where
  onDone : c.onDone ≠ none → (requestOf c.setup).dirIn = false

theorem State.ControlInv.onDone_none (hs : s.ControlInv) (h : s.ctrl.state ≠ .STATUS_IN) : s.ctrl.onDone = none := by
  by_contra hne
  exact h (hs.onDone hne)

theorem State.ControlInv.in0_empty (hs : s.ControlInv) (h : s.ctrl.state.sendsIn = false) : s.ctrl.in0 = .EMPTY := by
  cases hin : s.ctrl.in0 with
  | EMPTY => rfl
  | LOADED => rw [hs.loaded.1 hin] at h; cases h

/-! ## The stages (43_control_transfer.md R226, R227, R228, R231, R233) -/

theorem Ctrl.Bounds.stall (hc : s.ctrl.Bounds) : s.stall.ControlInv := by
  constructor <;> simp [CtrlState.sendsIn, hc.cursor_le, hc.in0_len, hc.data_le]

theorem Ctrl.Bounds.idle (hc : c.Bounds) (hin : c.in0 = .EMPTY) (hd : c.onDone = none) :
    ({ s with ctrl := { c with state := .IDLE } } : State).ControlInv := by
  constructor <;> simp [CtrlState.sendsIn, hc.cursor_le, hc.in0_len, hc.data_le, hin, hd]

theorem Ctrl.Bounds.statusOut (hc : c.Bounds) (hin : c.in0 = .EMPTY) (hd : c.onDone = none) :
    ({ s with ctrl := { c with state := .STATUS_OUT } } : State).ControlInv := by
  constructor <;> simp [CtrlState.sendsIn, hc.cursor_le, hc.in0_len, hc.data_le, hin, hd]

theorem Ctrl.Bounds.statusIn (hc : c.Bounds) : ({ s with ctrl := c.statusIn } : State).ControlInv := by
  constructor <;> simp [CtrlState.sendsIn, hc.cursor_le]

/-- `send_next_in` loads a packet of the response. -/
theorem Ctrl.Bounds.sendNextIn (hc : c.Bounds) (hr : c.resp.length = c.length) (hd : c.onDone = none) :
    ({ s with ctrl := c.sendNextIn } : State).ControlInv := by
  rcases c.sendNextIn_cases with ⟨-, -, h⟩ | ⟨-, h⟩ <;> rw [h]
  · constructor <;> simp [CtrlState.sendsIn, hc.cursor_le, hr, hd]
  · have hk : c.cursor + min Config.mps0 (c.length - c.cursor) ≤ c.length := by
      have := hc.cursor_le
      omega
    by_cases hlast : c.cursor + min Config.mps0 (c.length - c.cursor) = c.length ∧ c.zlp = false
    · simp only [if_pos hlast]
      constructor <;> simp [CtrlState.sendsIn, hk, hr, hd]
    · simp only [if_neg hlast]
      constructor <;> simp [CtrlState.sendsIn, hk, hr, hd]

/-- What is left of an OUT data stage is awaited in the state that its size gives. -/
theorem Ctrl.Bounds.dataOut (hc : c.Bounds) (hlt : c.cursor < c.length) (hcap : c.length ≤ Config.ctrlBufCap)
    (hin : c.in0 = .EMPTY) (hd : c.onDone = none)
    (hreq : (requestOf c.setup).dirIn = false ∧ c.length = (requestOf c.setup).wLength.toNat) :
    ({ s with ctrl := { c with state := dataOutState (c.length - c.cursor) } } : State).ControlInv := by
  obtain ⟨hdir, hlen⟩ := hreq
  by_cases hleft : c.length - c.cursor ≤ Config.mps0
  · simp only [dataOutState, if_pos hleft]
    constructor <;> simp [CtrlState.sendsIn, State.request, hc.cursor_le, hc.in0_len, hc.data_le, hin, hd, hdir, hcap,
      hlt, ← hlen, hleft]
  · simp only [dataOutState, if_neg hleft]
    constructor <;> simp [CtrlState.sendsIn, State.request, hc.cursor_le, hc.in0_len, hc.data_le, hin, hd, hdir, hcap,
      ← hlen, Nat.lt_of_not_le hleft]

/-! ## Serving a request (R221, R222, R230) -/

theorem Ctrl.Bounds.startIn (hc : c.Bounds) (resp : List Byte) (w : Nat) : (c.startIn resp w).Bounds :=
  ⟨Nat.zero_le _, hc.in0_len, hc.in0_le⟩

theorem Ctrl.Serving.completeRequest (hs : s.ctrl.Serving) (r : HandlerResult) : (s.completeRequest r).ControlInv := by
  rcases s.completeRequest_cases r with ⟨-, h⟩ | ⟨resp, -, ⟨hin, -, h⟩ | ⟨-, h⟩⟩ <;> rw [h]
  · exact hs.stall
  · have hd : s.ctrl.onDone = none := by
      by_contra hne
      exact nomatch hin.symm.trans (hs.onDone hne)
    exact (hs.startIn _ _).sendNextIn rfl hd
  · exact hs.statusIn

theorem Ctrl.Serving.dispatchRequest (hs : s.ctrl.Serving) (h : s.dispatchRequest s.request data = .ok (t, r)) :
    t.ctrl.Serving := by
  rcases State.dispatchRequest_ctrl h with hc | ⟨ha, hc⟩ <;> rw [hc]
  · exact hs
  · exact { hs with onDone := fun _ => ha.dirIn }

theorem Ctrl.Serving.serveRequest (hs : s.ctrl.Serving) (h : s.serveRequest data = .ok t) : t.ControlInv := by
  obtain ⟨⟨u, r⟩, hu, rfl⟩ := except_map_eq_ok.1 h
  exact (hs.dispatchRequest hu).completeRequest r

/-! ## The events -/

theorem State.ControlInv.setupPacket (hs : s.ControlInv) {p : List Byte} (h : s.setupPacket p = .ok t) :
    t.ControlInv := by
  have hb : (s.ctrl.beginSetup p).Bounds := ⟨Nat.zero_le _, hs.in0_len, hs.in0_le⟩
  rcases State.setupPacket_eq_ok h with ⟨-, -, rfl⟩ | ⟨hdir, hw, hcap, rfl⟩ | ⟨-, hserve⟩
  · exact hb.stall
  · exact Ctrl.Bounds.dataOut (c := { s.ctrl.beginSetup p with length := (requestOf p).wLength.toNat })
      ⟨Nat.zero_le _, hs.in0_len, hs.in0_le⟩ hw hcap rfl rfl ⟨hdir, rfl⟩
  · refine Ctrl.Serving.serveRequest ?_ hserve
    exact { hb with onDone := fun hne => absurd rfl hne }

theorem State.ControlInv.ctrlOutData (hs : s.ControlInv) {d : List Byte}
    (hst : s.ctrl.state = .DATA_OUT ∨ s.ctrl.state = .LAST_DATA_OUT) (h : s.ctrlOutData d = .ok t) : t.ControlInv := by
  have hin : s.ctrl.in0 = .EMPTY := hs.in0_empty (by rcases hst with h | h <;> rw [h] <;> rfl)
  have hd : s.ctrl.onDone = none := hs.onDone_none (by rcases hst with h | h <;> simp [h])
  rcases State.ctrlOutData_eq_ok h with ⟨-, rfl⟩ | ⟨hle, -, hrest⟩
  · exact hs.bounds.stall
  have hb : ({ s.ctrl with buf := s.ctrl.buf.writeBytes s.ctrl.cursor d, cursor := s.ctrl.cursor + d.length } :
      Ctrl).Bounds := ⟨hle, hs.in0_len, hs.in0_le⟩
  rcases hrest with ⟨-, hserve⟩ | ⟨-, -, rfl⟩ | ⟨hne, -, rfl⟩
  · refine Ctrl.Serving.serveRequest ?_ hserve
    exact { hb with onDone := fun hne => absurd hd hne }
  · exact hb.stall
  · exact hb.dataOut (Nat.lt_of_le_of_ne hle hne) (hs.out_cap hst) hin hd (hs.declared hst)

theorem State.ControlInv.ctrlOut (hs : s.ControlInv) {d : List Byte} (h : s.ctrlOut d = .ok t) : t.ControlInv := by
  have habort : ({ s.ctrl with in0 := .EMPTY, zlp := false } : Ctrl).Bounds := { hs.bounds with }
  unfold State.ctrlOut at h
  cases hst : s.ctrl.state <;> simp only [hst] at h
  case DATA_OUT => exact hs.ctrlOutData (.inl hst) h
  case LAST_DATA_OUT => exact hs.ctrlOutData (.inr hst) h
  all_goals cases h
  case STATUS_OUT => exact hs.bounds.idle (hs.in0_empty (by rw [hst]; rfl)) (hs.onDone_none (by simp [hst]))
  case DATA_IN => exact habort.idle rfl (hs.onDone_none (by simp [hst]))
  case LAST_DATA_IN => exact habort.idle rfl (hs.onDone_none (by simp [hst]))
  case STATUS_IN => exact hs.bounds.stall
  case IDLE => exact hs
  case STALLED => exact hs

theorem State.ControlInv.ctrlInDone (hs : s.ControlInv) (hin : s.ctrl.in0 = .LOADED) : s.ctrlInDone.ControlInv := by
  have hb : ({ s.ctrl with in0 := .EMPTY } : Ctrl).Bounds := { hs.bounds with }
  have hsend := hs.loaded.1 hin
  unfold State.ctrlInDone
  cases hst : s.ctrl.state <;> rw [hst] at hsend
  case DATA_IN => exact hb.sendNextIn (hs.resp (.inl hst)) (hs.onDone_none (by simp [hst]))
  case LAST_DATA_IN => exact hb.statusOut rfl (hs.onDone_none (by simp [hst]))
  case STATUS_IN =>
    have hdone : ({ s.ctrl with in0 := .EMPTY, onDone := none } : Ctrl).Bounds := { hb with }
    exact (hdone.idle (s := s) rfl rfl).congr rfl
  all_goals cases hsend

theorem State.busRestart_controlInv (s : State) : s.busRestart.ControlInv :=
  have hb : ({ Ctrl.reset with setup := s.ctrl.setup, buf := s.ctrl.buf } : Ctrl).Bounds := ⟨le_rfl, rfl, Nat.zero_le _⟩
  (hb.idle (s := s) rfl rfl).congr rfl

/-! ## Every operation -/

/-- The invariant does not speak of the marks and the reply. -/
theorem State.ControlInv.ignoresMarks : IgnoresMarks State.ControlInv := fun _ _ _ _ h => h.congr rfl

theorem exec_keeps_control (h : exec i s = .next t) (hs : s.ControlInv) : t.ControlInv := by
  by_cases hi : ServesEp0 i
  · rcases hi with ⟨p, rfl⟩ | ⟨d, rfl⟩ | rfl | rfl
    · exact State.ControlInv.ignoresMarks.conclude hs h fun v hv => (hs.setupPacket hv).congr rfl
    · exact State.ControlInv.ignoresMarks.event hs h fun _ h =>
        State.ControlInv.ignoresMarks.conclude hs h fun v hv => (hs.ctrlOut hv).congr rfl
    · rcases evCtrlInDone_cases h with ⟨hin, rfl⟩ | ⟨-, rfl⟩
      · exact (hs.ctrlInDone hin).congr rfl
      · exact hs.congr rfl
    · refine State.ControlInv.ignoresMarks.conclude hs h fun v hv => ?_
      obtain ⟨u, -, rfl⟩ := State.busReset_eq_ok.1 hv
      exact u.busRestart_controlInv.congr rfl
  · exact hs.congr ((exec_changes h).field_kept (Change.ctrl_kept hi))

end

/-- Settles O12: each stage that an event of endpoint 0 enters has the invariant, and no other operation writes the control
context. -/
theorem controlInvKept : Obligations.ControlInvKept := by
  unfold Obligations.ControlInvKept
  intro s t hs h
  unfold step at h
  split at h
  · cases h
  split at h
  · rename_i i rest _
    exact exec_keeps_control h (hs.congr rfl)
  · cases h; exact hs.congr rfl
  · cases h
  · cases h

end Sys2Proof.Machine
end

section
/-! PROOF. The standard requests that only answer, and the endpoint halt features (O48, O49). -/

namespace Sys2Proof.Machine

section
variable {s : State} {req : Request} {a : EpAddr}

/-! ## Rows of the request table (43_control_transfer.md R225, R240) -/

/-- The standard requests that R240 lists, by `bmRequestType` and `bRequest`. -/
def standardRequestTable : List (Byte × Byte) :=
  [(0x80#8, 0#8), (0x81#8, 0#8), (0x82#8, 0#8), (0x02#8, 1#8), (0x02#8, 3#8), (0x00#8, 5#8), (0x80#8, 6#8),
    (0x00#8, 7#8), (0x80#8, 8#8), (0x00#8, 9#8), (0x81#8, 10#8), (0x01#8, 11#8)]

/-- A request whose type is not one of the CDC handler's two goes to standard handling. -/
theorem State.dispatchRequest_of_type (s : State) {ty : Byte} (data : List Byte) (hty : req.bmRequestType = ty)
    (hout : ty ≠ 0x21 := by decide) (hin : ty ≠ 0xA1 := by decide) : s.dispatchRequest req data = s.standard req :=
  s.dispatchRequest_standard data (hty ▸ hout) (hty ▸ hin)

theorem State.dispatch_getStatus_device (s : State) (data : List Byte) (hty : req.bmRequestType = 0x80)
    (hrq : req.bRequest = 0) : s.dispatchRequest req data = .ok (s, .handled [0, 0]) := by
  rw [s.dispatchRequest_of_type data hty]
  simp [State.standard, Request.rtype, hty, hrq]

theorem State.dispatch_getStatus_interface (s : State) (data : List Byte) (hty : req.bmRequestType = 0x81)
    (hrq : req.bRequest = 0) : s.dispatchRequest req data = .ok (s.replyIf (s.interfaceOk req) [0, 0]) := by
  rw [s.dispatchRequest_of_type data hty]
  simp [State.standard, Request.rtype, hty, hrq]

theorem State.dispatch_getStatus_endpoint (s : State) (data : List Byte) (hty : req.bmRequestType = 0x82)
    (hrq : req.bRequest = 0) : s.dispatchRequest req data = .ok (s.getEpStatus req) := by
  rw [s.dispatchRequest_of_type data hty]
  simp [State.standard, Request.rtype, hty, hrq]

theorem State.dispatch_clearFeature (s : State) (data : List Byte) (hty : req.bmRequestType = 0x02)
    (hrq : req.bRequest = 1) : s.dispatchRequest req data = s.epFeature false req := by
  rw [s.dispatchRequest_of_type data hty]
  simp [State.standard, Request.rtype, hty, hrq]

theorem State.dispatch_setFeature (s : State) (data : List Byte) (hty : req.bmRequestType = 0x02)
    (hrq : req.bRequest = 3) : s.dispatchRequest req data = s.epFeature true req := by
  rw [s.dispatchRequest_of_type data hty]
  simp [State.standard, Request.rtype, hty, hrq]

theorem State.dispatch_setAddress (s : State) (data : List Byte) (hty : req.bmRequestType = 0x00)
    (hrq : req.bRequest = 5) : s.dispatchRequest req data = .ok (s.setAddressRequest req) := by
  rw [s.dispatchRequest_of_type data hty]
  simp [State.standard, Request.rtype, hty, hrq]

theorem State.dispatch_getDescriptor (s : State) (data : List Byte) (hty : req.bmRequestType = 0x80)
    (hrq : req.bRequest = 6) : s.dispatchRequest req data = .ok (s.getDescriptor req) := by
  rw [s.dispatchRequest_of_type data hty]
  simp [State.standard, Request.rtype, hty, hrq]

theorem State.dispatch_setDescriptor (s : State) (data : List Byte) (hty : req.bmRequestType = 0x00)
    (hrq : req.bRequest = 7) : s.dispatchRequest req data = .ok (s, .notSupported) := by
  rw [s.dispatchRequest_of_type data hty]
  simp [State.standard, Request.rtype, hty, hrq]

theorem State.dispatch_getConfiguration (s : State) (data : List Byte) (hty : req.bmRequestType = 0x80)
    (hrq : req.bRequest = 8) : s.dispatchRequest req data = .ok (s, .handled [s.usb.config]) := by
  rw [s.dispatchRequest_of_type data hty]
  simp [State.standard, Request.rtype, hty, hrq]

theorem State.dispatch_setConfiguration (s : State) (data : List Byte) (hty : req.bmRequestType = 0x00)
    (hrq : req.bRequest = 9) : s.dispatchRequest req data = s.setConfiguration req := by
  rw [s.dispatchRequest_of_type data hty]
  simp [State.standard, Request.rtype, hty, hrq]

theorem State.dispatch_getInterface (s : State) (data : List Byte) (hty : req.bmRequestType = 0x81)
    (hrq : req.bRequest = 10) : s.dispatchRequest req data = .ok (s.replyIf (s.interfaceOk req) [0]) := by
  rw [s.dispatchRequest_of_type data hty]
  simp [State.standard, Request.rtype, hty, hrq]

theorem State.dispatch_setInterface (s : State) (data : List Byte) (hty : req.bmRequestType = 0x01)
    (hrq : req.bRequest = 11) :
    s.dispatchRequest req data = .ok (s.replyIf (s.interfaceOk req && decide (req.wValue = 0)) []) := by
  rw [s.dispatchRequest_of_type data hty]
  simp [State.standard, Request.rtype, hty, hrq]

/-- A standard request of no row is rejected, whatever filters are registered. -/
theorem State.dispatchRequest_unlisted (data : List Byte) (hty : req.rtype = 0)
    (hrow : (req.bmRequestType, req.bRequest) ∉ standardRequestTable) :
    s.dispatchRequest req data = .ok (s, .notSupported) := by
  have hclass {ty : Byte} (hne : ty.extractLsb' 5 2 ≠ 0) : req.bmRequestType ≠ ty := by
    rintro rfl
    exact hne hty
  rw [s.dispatchRequest_standard data (hclass (by decide)) (hclass (by decide)), State.standard, if_neg (not_not.2 hty)]
  split
  case h_13 => rfl
  all_goals
    rename_i hb hr
    exact absurd (by rw [hb, hr]; decide) hrow

/-! ## Interface requests (R241) -/

theorem State.interfaceOk_iff :
    s.interfaceOk req = true ↔ s.usb.config ≠ 0 ∧ req.wIndex.toNat < Config.numIf := by
  simp [State.interfaceOk]

/-- A request with no effect is answered when its check holds, and rejected otherwise. -/
theorem State.replyIf_answers (s : State) {data resp : List Byte} {ok : Bool} {p : Prop}
    (hx : s.dispatchRequest req data = .ok (s.replyIf ok resp)) (hok : ok = true ↔ p) :
    (p → s.dispatchRequest req data = .ok (s, .handled resp)) ∧
    (¬ p → s.dispatchRequest req data = .ok (s, .notSupported)) := by
  rw [← hok, hx]
  cases ok <;> simp [State.replyIf]

/-! ## Endpoint requests (R242) -/

theorem epAddrToByte_low : (epAddrToByte a).extractLsb' 0 4 = 0#4 ↔ a.num.val = 0 := by
  obtain ⟨d, n⟩ := a
  revert n
  cases d <;> decide

theorem epAddrToByte_inj {b : EpAddr} (h : epAddrToByte a = epAddrToByte b) : a = b := by
  have := congrArg epAddrOfByte h
  simpa using this

theorem Request.indexByte_low (req : Request) : req.indexByte.extractLsb' 0 4 = req.wIndex.extractLsb' 0 4 := by
  apply BitVec.eq_of_toNat_eq
  simp [Request.indexByte]

theorem State.epTarget_zero (h : req.wIndex.extractLsb' 0 4 = 0#4) : s.epTarget req.indexByte = .zero := by
  rw [State.epTarget, req.indexByte_low, if_pos h]

theorem State.epTarget_configured (hb : req.wIndex.extractLsb' 0 8 = epAddrToByte a) (hc : (s.ep a).cfg = true) :
    s.epTarget req.indexByte = .configured a := by
  have hlow : ¬ (epAddrToByte a).extractLsb' 0 4 = 0#4 := mt epAddrToByte_low.1 (State.num_ne_zero_of_cfg hc)
  rw [State.epTarget, Request.indexByte, hb, if_neg hlow]
  simp [hc]

theorem State.epTarget_absent (hlow : req.wIndex.extractLsb' 0 4 ≠ 0#4)
    (h : ∀ a : EpAddr, req.wIndex.extractLsb' 0 8 = epAddrToByte a → (s.ep a).cfg = false) :
    s.epTarget req.indexByte = .absent := by
  rw [State.epTarget, req.indexByte_low, if_neg hlow]
  split
  · rename_i a ha
    have hc := h a (epAddrToByte_ofByte ha)
    simp [hc]
  · rfl

/-- A target is configured. -/
theorem State.cfg_of_epTarget {b : Byte} (h : s.epTarget b = .configured a) : (s.ep a).cfg = true := by
  unfold State.epTarget at h
  split at h
  · cases h
  split at h
  · split at h <;> cases h
    assumption
  · cases h

/-- An endpoint from 1 on that is not configured is no target. -/
theorem State.epTarget_unconfigured (hn : a.num.val ≠ 0) (hb : req.wIndex.extractLsb' 0 8 = epAddrToByte a)
    (hc : (s.ep a).cfg = false) : s.epTarget req.indexByte = .absent := by
  refine State.epTarget_absent ?_ fun b hb' => ?_
  · rw [← req.indexByte_low, Request.indexByte, hb]
    exact mt epAddrToByte_low.1 hn
  · rw [← epAddrToByte_inj (hb.symm.trans hb')]
    exact hc

theorem State.getEpStatus_zero (h : s.epTarget req.indexByte = .zero) :
    s.getEpStatus req = (s, .handled [0, 0]) := by
  rw [State.getEpStatus, h]

theorem State.getEpStatus_configured (h : s.epTarget req.indexByte = .configured a) :
    s.getEpStatus req = (s, .handled [if (s.ep a).halt then 1 else 0, 0]) := by
  rw [State.getEpStatus, h]

theorem State.getEpStatus_absent (h : s.epTarget req.indexByte = .absent) :
    s.getEpStatus req = (s, .notSupported) := by
  rw [State.getEpStatus, h]

/-! ## The endpoint halt features (R243, R244) -/

theorem State.epFeature_zero (set : Bool) (hv : req.wValue = 0) (h : s.epTarget req.indexByte = .zero) :
    s.epFeature set req = .ok (s, .handled []) := by
  rw [State.epFeature, if_neg (not_not.2 hv), h]

theorem State.epFeature_absent (set : Bool) (hv : req.wValue = 0) (h : s.epTarget req.indexByte = .absent) :
    s.epFeature set req = .ok (s, .notSupported) := by
  rw [State.epFeature, if_neg (not_not.2 hv), h]

theorem State.epFeature_configured (set : Bool) (hv : req.wValue = 0) (h : s.epTarget req.indexByte = .configured a)
    (hc : (s.ep a).cfg = true) :
    s.epFeature set req = .ok (s.syncOrDefer a { s.ep a with halt := set }, .handled []) := by
  have hok : s.epAny a = .ok (s.ep a) := State.epAny_eq_ok.2 ⟨hc, rfl⟩
  cases set <;> simp [State.epFeature, hv, h, State.epSetHalt, State.epClearHalt, hok, Except.map]

/-- SET_FEATURE and CLEAR_FEATURE of an endpoint reach the halt feature's handling. -/
theorem State.dispatchRequest_epFeature (s : State) (set : Bool) (data : List Byte) (hty : req.bmRequestType = 0x02)
    (hrq : req.bRequest = if set then 3 else 1) : s.dispatchRequest req data = s.epFeature set req := by
  cases set
  · exact s.dispatch_clearFeature data hty hrq
  · exact s.dispatch_setFeature data hty hrq

end

/-- Settles O48: each request reaches its row of the table, which changes nothing; a request of no row is rejected. -/
theorem standardRequests : Obligations.StandardRequests := by
  unfold Obligations.StandardRequests
  intro s req data answers rejected interface
  refine ⟨s.dispatch_getStatus_device data, fun hty hrq => ?_, fun hty hrq => ?_, fun hty hrq => ?_,
    s.dispatch_setDescriptor data, s.dispatch_getConfiguration data, fun hty hrq => ?_, fun hty hrq => ?_,
    State.dispatchRequest_unlisted data⟩
  · exact s.replyIf_answers (s.dispatch_getStatus_interface data hty hrq) State.interfaceOk_iff
  · have hx := s.dispatch_getStatus_endpoint data hty hrq
    refine ⟨fun hlow => ?_, fun a hn hb => ⟨fun hc => ?_, fun hc => ?_⟩, fun hlow hill => ?_⟩
    · exact hx.trans (congrArg _ (State.getEpStatus_zero (State.epTarget_zero hlow)))
    · exact hx.trans (congrArg _ (State.getEpStatus_configured (State.epTarget_configured hb hc)))
    · exact hx.trans (congrArg _ (State.getEpStatus_absent (State.epTarget_unconfigured hn hb hc)))
    · exact hx.trans (congrArg _ (State.getEpStatus_absent (State.epTarget_absent hlow fun a hb => absurd hb (hill a))))
  · have hx := s.dispatch_getDescriptor data hty hrq
    rw [State.getDescriptor] at hx
    split <;> rename_i hdesc <;> rw [hdesc] at hx <;> exact hx
  · exact s.replyIf_answers (s.dispatch_getInterface data hty hrq) State.interfaceOk_iff
  · refine s.replyIf_answers (s.dispatch_setInterface data hty hrq) ?_
    rw [Bool.and_eq_true, State.interfaceOk_iff, decide_eq_true_iff]

/-- Settles O49: the feature request finds its target, whose halt is written and synchronised. -/
theorem endpointHaltFeatures : Obligations.EndpointHaltFeatures := by
  unfold Obligations.EndpointHaltFeatures
  intro s req data set rejected hrq
  refine ⟨fun hty hne => State.dispatchRequest_unlisted data hty ?_, fun hty => ?_⟩
  · rw [hrq]
    cases set <;> simpa [standardRequestTable] using hne
  have hx := s.dispatchRequest_epFeature set data hty hrq
  refine ⟨fun hv => hx.trans (if_pos hv), fun hv hlow => hx.trans (State.epFeature_zero set hv (State.epTarget_zero hlow)),
    fun hv hlow h => hx.trans (State.epFeature_absent set hv (State.epTarget_absent hlow h)),
    fun a hv hb hc hcb _ => ?_⟩
  obtain ⟨-, hother, -, hsync⟩ := s.syncOrDefer_answered hc { s.ep a with halt := set }
  refine ⟨_, hx.trans (State.epFeature_configured set hv (State.epTarget_configured hb hc) hc), ?_, hother, hsync hcb⟩
  rw [State.syncOrDefer_eq]
  exact State.setEp_frame _ _ _

end Sys2Proof.Machine
end

section
/-! PROOF. SET_CONFIGURATION (O51), and how control dispatch can stop (60_exceptions.md R328). -/

namespace Sys2Proof.Machine

section
variable {s t : State} {req : Request} {data : List Byte}

/-! ## UART_ENABLE (41_uart_engine.md R137) -/

/-- An abort that stops would read past the TX ring. -/
theorem State.abortChunk_eq_error {x : Stop} (h : s.abortChunk = .error x) :
    x = .outside .txrb ∧ s.uart.txBusy = true ∧ Config.rbCapTx < s.txrb.tail + s.uart.txChunk := by
  unfold State.abortChunk at h
  split at h
  · rename_i hb
    simp only at h
    split at h
    · cases h
    · rename_i x hx
      cases h
      obtain ⟨hlt, rfl⟩ := checkSpace_eq_error.1 hx
      have := s.draw_le s.uart.txChunk
      exact ⟨rfl, hb, hlt.trans_le (by omega)⟩
  · cases h

/-- The chunk that UART_ENABLE would abort lies inside the TX ring. -/
def State.Startable (s : State) : Prop := s.uart.txBusy = false ∨ s.txrb.tail + s.uart.txChunk ≤ Config.rbCapTx

/-- `k` bytes of a chunk that UART_ENABLE may have aborted in `s`. -/
structure State.AbortedBytes (s : State) (k : Nat) : Prop where
  idle : s.uart.txBusy = false → k = 0
  le_chunk : k ≤ s.uart.txChunk

/-- An abort inside the TX ring puts at most the chunk on the wire, and nothing when no chunk is in flight. -/
theorem State.Startable.abortChunk (h : s.Startable) : ∃ k, s.AbortedBytes k ∧ s.abortChunk = .ok { s with
    wireOut := s.wireOut ++ (List.range k).map (fun j => s.readByte .txrb (s.txrb.tail + j))
    draws := if s.uart.txBusy then s.draws + 1 else s.draws } := by
  rcases hb : s.uart.txBusy with _ | _
  · refine ⟨0, ⟨fun _ => rfl, Nat.zero_le _⟩, State.abortChunk_eq_ok.2 (.inl ⟨hb, ?_⟩)⟩
    simp
  · have hk := s.draw_le s.uart.txChunk
    have hin : s.txrb.tail + s.uart.txChunk ≤ Config.rbCapTx := h.resolve_left (by simp [hb])
    refine ⟨s.draw s.uart.txChunk, ⟨fun h => by simp [hb] at h, hk⟩,
      State.abortChunk_eq_ok.2 (.inr ⟨hb, by omega, ?_⟩)⟩
    rw [Memory.readBytes_eq_map]
    rfl

/-! ## The three endpoints (44_cdc_bridge.md R286; 42_endpoint_engine.md R171-R173) -/

/-- The state that EP_SETUP leaves, the slots allocated from `base` on. -/
def State.afterSetup (s : State) (a : EpAddr) (base n : Nat) (ty : EpType) : State :=
  { s with usb := { s.usb with pmaNext := setupFinal base n ty } }.setEp a ((s.ep a).setUp a base n ty)

/-- `t` differs from `s` in its endpoints only, and its packet memory is allocated up to `n`. -/
def AllocatedTo (n : Nat) (s t : State) : Prop :=
  ∃ o i, t = { s with epOut := o, epIn := i, usb := { s.usb with pmaNext := n } }

theorem AllocatedTo.trans {m n : Nat} {u : State} (h1 : AllocatedTo m s t) (h2 : AllocatedTo n t u) :
    AllocatedTo n s u := by
  obtain ⟨o1, i1, rfl⟩ := h1
  obtain ⟨o2, i2, rfl⟩ := h2
  exact ⟨o2, i2, rfl⟩

section
variable {a b : EpAddr} {n base : Nat} {ty : EpType}

/-- EP_SETUP with the allocation mark at `base` and room for its slots. -/
theorem State.epSetup_eq_afterSetup (hb : s.usb.pmaNext = base) (ha : a.num.val ≠ 0) (hn : n ≠ 0)
    (hfit : setupFinal base n ty ≤ Config.pmaBytes) : s.epSetup a n ty = .ok (s.afterSetup a base n ty) := by
  subst hb
  exact State.epSetup_eq_ok.2 ⟨ha, hn, hfit, rfl⟩

theorem State.afterSetup_pmaNext (s : State) : (s.afterSetup a base n ty).usb.pmaNext = setupFinal base n ty :=
  congrArg Usb.pmaNext (State.setEp_usb _ _ _)

theorem State.afterSetup_allocated (s : State) : AllocatedTo (setupFinal base n ty) s (s.afterSetup a base n ty) :=
  ⟨_, _, State.setEp_frame _ _ _⟩

theorem State.ep_afterSetup_self (s : State) (ha : a.num.val ≠ 0) :
    (s.afterSetup a base n ty).ep a = (s.ep a).setUp a base n ty := State.ep_setEp_self _ _ ha

theorem State.ep_afterSetup_other (s : State) (hb : b ≠ a) : (s.afterSetup a base n ty).ep b = s.ep b :=
  State.ep_setEp_other _ _ hb

end

/-- The three EP_SETUPs of `set_config()`, from the first free byte of packet memory on. -/
def State.withCdcEndpoints (s : State) : State :=
  ((s.afterSetup Config.epBulkOut 128 Config.bufBulkOut .BULK).afterSetup Config.epBulkIn 256 Config.bufBulkIn .BULK).afterSetup
    Config.epIntIn 384 Config.bufIntIn .INTERRUPT

theorem State.withCdcEndpoints_allocated (s : State) : AllocatedTo 400 s s.withCdcEndpoints :=
  ((State.afterSetup_allocated s).trans (State.afterSetup_allocated _)).trans (State.afterSetup_allocated _)

theorem State.ep_withCdcEndpoints (s : State) :
    (s.withCdcEndpoints.ep Config.epBulkOut = (s.ep Config.epBulkOut).setUp Config.epBulkOut 128 Config.bufBulkOut .BULK) ∧
    (s.withCdcEndpoints.ep Config.epBulkIn = (s.ep Config.epBulkIn).setUp Config.epBulkIn 256 Config.bufBulkIn .BULK) ∧
    (s.withCdcEndpoints.ep Config.epIntIn = (s.ep Config.epIntIn).setUp Config.epIntIn 384 Config.bufIntIn .INTERRUPT) ∧
    (∀ a, a ≠ Config.epBulkOut → a ≠ Config.epBulkIn → a ≠ Config.epIntIn → s.withCdcEndpoints.ep a = s.ep a) := by
  unfold State.withCdcEndpoints
  refine ⟨?_, ?_, ?_, fun a ho hi hn => ?_⟩
  · rw [State.ep_afterSetup_other _ (by decide), State.ep_afterSetup_other _ (by decide),
      State.ep_afterSetup_self _ (by decide)]
  · rw [State.ep_afterSetup_other _ (by decide), State.ep_afterSetup_self _ (by decide),
      State.ep_afterSetup_other _ (by decide)]
  · rw [State.ep_afterSetup_self _ (by decide), State.ep_afterSetup_other _ (by decide),
      State.ep_afterSetup_other _ (by decide)]
  · rw [State.ep_afterSetup_other _ hn, State.ep_afterSetup_other _ hi, State.ep_afterSetup_other _ ho]

/-- The bridge's memory of the serial state is cleared (R286). -/
def State.clearedBridge (s : State) : State :=
  { s with br := { s.br with lastState := 0, pending := 0, zlpNeeded := false } }

/-- With packet memory free, `set_config()` can stop in UART_ENABLE only. -/
theorem State.setConfig_eq (h : s.usb.pmaNext = pmaFirst) :
    s.setConfig = s.withCdcEndpoints.uartEnable.map State.clearedBridge := by
  unfold State.setConfig
  rw [State.epSetup_eq_afterSetup (base := 128) h (by decide) (by decide) (by decide)]
  simp only [bind, Except.bind]
  rw [State.epSetup_eq_afterSetup (base := 256) (State.afterSetup_pmaNext _) (by decide) (by decide) (by decide)]
  simp only
  rw [State.epSetup_eq_afterSetup (base := 384) (State.afterSetup_pmaNext _) (by decide) (by decide) (by decide)]
  rfl

/-- The endpoints of the one configuration (R286), all others at their reset values. -/
structure State.CdcConfigured (t : State) : Prop where
  others : ∀ a, a ≠ Config.epBulkOut → a ≠ Config.epBulkIn → a ≠ Config.epIntIn → t.ep a = Endpoint.reset a.dir
  bulkOut : t.ep Config.epBulkOut = ⟨true, .BULK, 64, true, ⟨.FREE, 0, 128⟩, ⟨.FREE, 0, 192⟩, 0, 0, false, .VALID,
    false, false, some .onUsbDataReceived, 0⟩
  bulkIn : t.ep Config.epBulkIn = ⟨true, .BULK, 64, true, ⟨.EMPTY, 0, 256⟩, ⟨.EMPTY, 0, 320⟩, 0, 0, false, .VALID,
    false, false, none, 0⟩
  intIn : t.ep Config.epIntIn = ⟨true, .INTERRUPT, 16, false, ⟨.EMPTY, 0, 384⟩, ⟨.EMPTY, 0, 0⟩, 0, 0, false, .VALID,
    false, false, none, 0⟩

/-- The three endpoints set up after a deconfiguration. -/
theorem State.cdcConfigured (h : ∀ a, s.ep a = Endpoint.reset a.dir) : s.withCdcEndpoints.CdcConfigured := by
  obtain ⟨ho, hi, hn, hrest⟩ := s.ep_withCdcEndpoints
  refine ⟨fun a h1 h2 h3 => (hrest a h1 h2 h3).trans (h a), ?_, ?_, ?_⟩
  · rw [ho, h]
    rfl
  · rw [hi, h]
    rfl
  · rw [hn, h]
    rfl

/-! ## The request (43_control_transfer.md R251) -/

/-- The registers that SET_CONFIGURATION 1 leaves, with `k` bytes of an aborted chunk on the wire and the endpoints `o`
and `i`. -/
def State.configured (s : State) (k : Nat) (o i : Vector Endpoint (Config.numEp - 1)) : State :=
  { s with
    epOut := o, epIn := i, usb := ⟨s.usb.address, 1, none, 400⟩
    txrb := { s.txrb with head := 0, tail := 0 }
    rx := { s.rx with tail := 0, lastLen := 0, dmaRem := Config.rbCapRx, armed := true }
    uart := { s.uart with txChunk := 0, txBusy := false, enabled := true }
    pin := { s.pin with dtr := false, rts := false }
    br := { s.br with lastState := 0, pending := 0, zlpNeeded := false }
    wireOut := s.wireOut ++ (List.range k).map (fun j => s.readByte .txrb (s.txrb.tail + j))
    draws := if s.uart.txBusy then s.draws + 1 else s.draws }

/-- The registers that SET_CONFIGURATION 0 leaves. -/
def State.deconfigured (s : State) : State :=
  { s with
    epOut := Vector.replicate 7 (Endpoint.reset .OUT), epIn := Vector.replicate 7 (Endpoint.reset .IN)
    usb := ⟨s.usb.address, 0, none, 128⟩ }

theorem State.setConfiguration_rejected (s : State) (h : 1 < req.wValue.toNat) :
    s.setConfiguration req = .ok (s, .notSupported) := by
  have h0 : req.wValue ≠ 0 := fun h0 => by simp [h0] at h
  have h1 : req.wValue ≠ 1 := fun h1 => by simp [h1] at h
  simp only [State.setConfiguration, if_neg h0, if_neg h1]

theorem State.setConfiguration_zero (s : State) (h : req.wValue = 0) :
    s.setConfiguration req = .ok (s.deconfigured, .handled []) := by
  simp only [State.setConfiguration, if_pos h]
  rfl

theorem State.setConfiguration_one (s : State) (h : req.wValue = 1) : s.setConfiguration req =
    ({ s.deconfigureAll with usb := { s.deconfigureAll.usb with config := 1 } } : State).withCdcEndpoints.uartEnable.map
      fun u => (u.clearedBridge, .handled []) := by
  have h0 : req.wValue ≠ 0 := by rw [h]; decide
  simp only [State.setConfiguration, if_neg h0, if_pos h]
  rw [State.setConfig_eq rfl]
  cases State.uartEnable _ <;> rfl

theorem State.Startable.setConfiguration (hs : s.Startable) (h : req.wValue = 1) : ∃ k o i, s.AbortedBytes k ∧
    (s.configured k o i).CdcConfigured ∧ s.setConfiguration req = .ok (s.configured k o i, .handled []) := by
  rw [s.setConfiguration_one h]
  have hep := State.cdcConfigured
    (s := { s.deconfigureAll with usb := { s.deconfigureAll.usb with config := 1 } }) s.ep_deconfigureAll
  obtain ⟨o, i, hu⟩ := State.withCdcEndpoints_allocated
    { s.deconfigureAll with usb := { s.deconfigureAll.usb with config := 1 } }
  generalize State.withCdcEndpoints _ = u at hep hu ⊢
  have hstart : u.Startable := by rw [hu]; exact hs
  obtain ⟨k, hk, habort⟩ := hstart.abortChunk
  subst hu
  refine ⟨k, o, i, ⟨hk.idle, hk.le_chunk⟩, ⟨hep.others, hep.bulkOut, hep.bulkIn, hep.intIn⟩, ?_⟩
  rw [State.uartEnable, habort]
  rfl

/-! ## How a dispatch can end -/

/-- A dispatch ends with a definitive result, or stops where UART_ENABLE would read past the TX ring: it is never a misuse
and never CONTINUE (60_exceptions.md R328; 43_control_transfer.md R223, log 29). -/
def Definitive (o : Except Stop (State × HandlerResult)) : Prop :=
  o = .error (.outside .txrb) ∨ ∃ t r, r ≠ .pass ∧ o = .ok (t, r)

section
variable {o : Except Stop (State × HandlerResult)} {r : HandlerResult}

theorem Definitive.of_ok (hr : r ≠ .pass) (h : o = .ok (t, r)) : Definitive o := .inr ⟨t, r, hr, h⟩

theorem Definitive.ne_misuse (h : Definitive o) (c : FaultCode) : o ≠ .error (.misuse c) := by
  rcases h with h | ⟨t, r, -, h⟩ <;> simp [h]

theorem Definitive.ne_pass (h : Definitive o) (t : State) : o ≠ .ok (t, .pass) := by
  rcases h with h | ⟨u, r, hr, h⟩
  · simp [h]
  · rw [h]
    rintro ⟨⟩
    exact hr rfl

end

theorem State.setConfiguration_definitive (s : State) (req : Request) : Definitive (s.setConfiguration req) := by
  by_cases h1 : req.wValue = 1
  · rw [s.setConfiguration_one h1]
    generalize State.withCdcEndpoints _ = u
    rcases habort : u.abortChunk with x | v
    · obtain ⟨rfl, -, -⟩ := State.abortChunk_eq_error habort
      exact .inl (by rw [State.uartEnable, habort]; rfl)
    · exact .of_ok (r := .handled []) (by simp) (by rw [State.uartEnable, habort]; rfl)
  by_cases h0 : req.wValue = 0
  · exact .of_ok (by simp) (s.setConfiguration_zero h0)
  · exact .of_ok (t := s) (r := .notSupported) (by simp) (by simp only [State.setConfiguration, if_neg h0, if_neg h1])

/-- An endpoint feature request acts on a configured endpoint, so it is no misuse. -/
theorem State.epFeature_definitive (s : State) (set : Bool) (req : Request) : Definitive (s.epFeature set req) := by
  by_cases hv : req.wValue = 0
  · cases hx : s.epTarget req.indexByte with
    | zero => exact .of_ok (by simp) (State.epFeature_zero set hv hx)
    | configured a => exact .of_ok (by simp) (State.epFeature_configured set hv hx (State.cfg_of_epTarget hx))
    | absent => exact .of_ok (by simp) (State.epFeature_absent set hv hx)
  · exact .of_ok (r := .notSupported) (by simp) (if_pos hv)

theorem State.setAddressRequest_definitive (s : State) (req : Request) : Definitive (.ok (s.setAddressRequest req)) := by
  unfold State.setAddressRequest
  split
  · exact .of_ok (by simp) rfl
  · exact .of_ok (by simp) rfl

/-- A standard request has no effect, or it is one of those that write: a feature, SET_ADDRESS, SET_CONFIGURATION. -/
theorem State.standard_cases (s : State) (req : Request) :
    (∃ r, r ≠ .pass ∧ s.standard req = .ok (s, r)) ∨
    (req.bmRequestType = 0x02 ∧ ∃ set, s.standard req = s.epFeature set req) ∨
    (req.bmRequestType = 0x00 ∧ s.standard req = .ok (s.setAddressRequest req)) ∨
    (req.bmRequestType = 0x00 ∧ s.standard req = s.setConfiguration req) := by
  have hreply (ok : Bool) (resp : List Byte) : ∃ r, r ≠ .pass ∧ s.replyIf ok resp = (s, r) :=
    ⟨_, by cases ok <;> simp, rfl⟩
  unfold State.standard
  split
  · exact .inl ⟨.notSupported, by simp, rfl⟩
  split
  case h_2 => exact .inl ((hreply _ _).imp fun r hr => ⟨hr.1, congrArg _ hr.2⟩)
  case h_3 =>
    refine .inl ?_
    unfold State.getEpStatus
    split <;> exact ⟨_, by simp, rfl⟩
  case h_4 hb _ => exact .inr (.inl ⟨hb, false, rfl⟩)
  case h_5 hb _ => exact .inr (.inl ⟨hb, true, rfl⟩)
  case h_6 hb _ => exact .inr (.inr (.inl ⟨hb, rfl⟩))
  case h_7 =>
    refine .inl ?_
    unfold State.getDescriptor
    split <;> exact ⟨_, by simp, rfl⟩
  case h_10 hb _ => exact .inr (.inr (.inr ⟨hb, rfl⟩))
  case h_11 => exact .inl ((hreply _ _).imp fun r hr => ⟨hr.1, congrArg _ hr.2⟩)
  case h_12 => exact .inl ((hreply _ _).imp fun r hr => ⟨hr.1, congrArg _ hr.2⟩)
  all_goals exact .inl ⟨_, by simp, rfl⟩

theorem State.standard_definitive (s : State) (req : Request) : Definitive (s.standard req) := by
  rcases s.standard_cases req with ⟨r, hr, h⟩ | ⟨-, set, h⟩ | ⟨-, h⟩ | ⟨-, h⟩
  · exact .of_ok hr h
  · exact h ▸ s.epFeature_definitive set req
  · exact h ▸ s.setAddressRequest_definitive req
  · exact h ▸ s.setConfiguration_definitive req

theorem State.dispatchRequest_definitive (s : State) (req : Request) (data : List Byte) :
    Definitive (s.dispatchRequest req data) := by
  rw [State.dispatchRequest_eq]
  split <;> rename_i h
  · exact .of_ok h.2 rfl
  · exact s.standard_definitive req

/-! ## IN requests -/

theorem State.cdc_of_dirIn (s : State) (data : List Byte) (h : req.dirIn = true) : (s.cdc req data).1 = s := by
  have hout : req.bmRequestType ≠ 0x21 := fun hty => by simp [Request.dirIn, hty] at h
  simp only [State.cdc, hout, false_and, if_false]
  split_ifs <;> rfl

/-- Dispatch of an IN request changes nothing, and it answers or rejects. -/
theorem State.dispatchRequest_of_dirIn (s : State) (data : List Byte) (h : req.dirIn = true) :
    s.dispatchRequest req data = .ok (s, .notSupported) ∨ ∃ resp, s.dispatchRequest req data = .ok (s, .handled resp) := by
  have hkept : ∃ r, s.dispatchRequest req data = .ok (s, r) := by
    rw [State.dispatchRequest_eq]
    split
    · exact ⟨_, congrArg Except.ok (Prod.ext (s.cdc_of_dirIn data h) rfl)⟩
    · have hty {ty : Byte} (hout : ty.getLsbD 7 = false) : req.bmRequestType ≠ ty := fun hty => by
        rw [Request.dirIn, hty, hout] at h
        cases h
      rcases s.standard_cases req with ⟨r, -, hx⟩ | ⟨hb, -⟩ | ⟨hb, -⟩ | ⟨hb, -⟩
      · exact ⟨r, hx⟩
      all_goals exact absurd hb (hty rfl)
  obtain ⟨r, hr⟩ := hkept
  cases r with
  | handled resp => exact .inr ⟨resp, hr⟩
  | notSupported => exact .inl hr
  | pass => exact absurd hr ((s.dispatchRequest_definitive req data).ne_pass s)

/-! ## A SETUP that is served at once (R221, R222) -/

/-- The state in which a SETUP's request is dispatched: any transfer in progress is aborted. -/
def State.begun (s : State) (p : List Byte) : State := { s with ctrl := s.ctrl.beginSetup p }

/-- A request without an OUT data stage is dispatched at once. -/
theorem exec_evSetup_served {p : List Byte} {r : HandlerResult}
    (hnow : ¬ ((requestOf p).dirIn = false ∧ 0 < (requestOf p).wLength.toNat))
    (h : (s.begun p).dispatchRequest (requestOf p) [] = .ok (t, r)) :
    exec (.evSetup p) s = .next (t.completeRequest r).taken := by
  have hs : s.setupPacket p = .ok (t.completeRequest r) := (if_neg hnow).trans (congrArg _ h)
  simp only [exec, execEvSetup, hs]
  rfl

theorem State.completeRequest_status (resp : List Byte)
    (h : ¬ (s.request.dirIn = true ∧ 0 < s.request.wLength.toNat)) :
    s.completeRequest (.handled resp) = { s with ctrl := s.ctrl.statusIn } := if_neg h

theorem State.completeRequest_data (resp : List Byte) (hd : s.request.dirIn = true)
    (hw : 0 < s.request.wLength.toNat) : s.completeRequest (.handled resp) =
      { s with ctrl := (s.ctrl.startIn resp s.request.wLength.toNat).sendNextIn } := if_pos ⟨hd, hw⟩

/-- A request without any data stage that is handled: the status packet is loaded. -/
theorem exec_evSetup_status {p resp : List Byte} (hw : (requestOf p).wLength.toNat = 0)
    (h : (s.begun p).dispatchRequest (requestOf p) [] = .ok (t, .handled resp)) :
    exec (.evSetup p) s = .next ({ t with ctrl := t.ctrl.statusIn } : State).taken := by
  have hreq : t.request = requestOf p := State.dispatchRequest_request h
  rw [exec_evSetup_served (by omega) h, State.completeRequest_status]
  rw [hreq]
  omega

/-- The wValue of a SETUP packet's bytes. -/
theorem toNat_half (lo hi : Byte) : (hi ++ lo : Half).toNat = lo.toNat + 256 * hi.toNat :=
  toNat_append_eq_add hi lo

end

/-- Settles O51: dispatch reaches SET_CONFIGURATION's row, and a SETUP without data completes with its result. -/
theorem setConfiguration : Obligations.SetConfiguration := by
  unfold Obligations.SetConfiguration
  intro configured deconfigured startable
  have hconf {s : State} {k : Nat} {o i} (hk : s.AbortedBytes k) (hep : (s.configured k o i).CdcConfigured) :
      configured s (s.configured k o i) :=
    ⟨k, hk.idle, hk.le_chunk, rfl, hep.others, hep.bulkOut, hep.bulkIn, hep.intIn⟩
  refine ⟨fun s req data hty hrq => ?_, fun s v0 v1 i0 i1 => ?_⟩
  · have hx := s.dispatch_setConfiguration data hty hrq
    refine ⟨fun hv => hx.trans (s.setConfiguration_rejected hv), fun hv => hx.trans (s.setConfiguration_zero hv),
      fun hv hs => ?_⟩
    obtain ⟨k, o, i, hk, hep, hset⟩ := State.Startable.setConfiguration (s := s) hs hv
    exact ⟨_, hconf hk hep, hx.trans hset⟩
  · intro p v c
    have hval : (requestOf p).wValue.toNat = v := toNat_half v0 v1
    have hw : (requestOf p).wLength.toNat = 0 := toNat_half 0 0
    have hx : (s.begun p).dispatchRequest (requestOf p) [] = (s.begun p).setConfiguration (requestOf p) :=
      State.dispatch_setConfiguration _ _ rfl rfl
    refine ⟨fun hv => ?_, fun hv => ?_, fun hv hs => ?_⟩
    · exact exec_evSetup_served (by omega) (hx.trans (State.setConfiguration_rejected _ (hval ▸ hv)))
    · exact exec_evSetup_status hw (hx.trans (State.setConfiguration_zero _ (BitVec.eq_of_toNat_eq (hval.trans hv))))
    · obtain ⟨k, o, i, hk, hep, hset⟩ := State.Startable.setConfiguration (s := s.begun p) hs
        (req := requestOf p) (BitVec.eq_of_toNat_eq (hval.trans hv))
      exact ⟨s.configured k o i, hconf ⟨hk.idle, hk.le_chunk⟩ ⟨hep.others, hep.bulkOut, hep.bulkIn, hep.intIn⟩,
        exec_evSetup_status hw (hx.trans hset)⟩

end Sys2Proof.Machine
end

section
/-! PROOF. The events of endpoint 0, by the state of the control machine: EV_SETUP of an OUT request with data,
EV_CTRL_OUT and EV_CTRL_IN_DONE (O46, O47). -/

namespace Sys2Proof.Machine

section
variable {s t : State} {p d : List Byte} {r : HandlerResult}

/-! ## EV_SETUP with an OUT data stage (43_control_transfer.md R221, R232) -/

theorem exec_evSetup_tooLong (hd : (requestOf p).dirIn = false)
    (hw : Config.ctrlBufCap < (requestOf p).wLength.toNat) : exec (.evSetup p) s = .next (s.begun p).stall.taken := by
  have hs : s.setupPacket p = .ok (s.begun p).stall := (if_pos ⟨hd, Nat.zero_lt_of_lt hw⟩).trans (if_pos hw)
  simp only [exec, execEvSetup, hs]
  rfl

/-- The state in which the OUT data stage of a SETUP is awaited. -/
def State.awaitsData (s : State) (p : List Byte) : State :=
  { s with ctrl := { s.ctrl.beginSetup p with
      length := (requestOf p).wLength.toNat, state := dataOutState (requestOf p).wLength.toNat } }

theorem exec_evSetup_dataOut (hd : (requestOf p).dirIn = false) (hpos : 0 < (requestOf p).wLength.toNat)
    (hw : (requestOf p).wLength.toNat ≤ Config.ctrlBufCap) : exec (.evSetup p) s = .next (s.awaitsData p).taken := by
  have hs : s.setupPacket p = .ok (s.awaitsData p) := (if_pos ⟨hd, hpos⟩).trans (if_neg (Nat.not_lt.2 hw))
  simp only [exec, execEvSetup, hs]
  rfl

/-! ## EV_CTRL_OUT (R230, R231, R236, R237) -/

theorem waits_evCtrlOut (h : s.ctrl.state = .STALLED ∨ Config.mps0 < d.length) : Waits (.evCtrlOut d) s := by
  have hoff : s.ctrlOutEnabled d.length = false := by
    rcases h with h | h <;> simp [State.ctrlOutEnabled, h]
  simp only [Waits, exec, execEvCtrlOut, hoff]
  rfl

theorem exec_evCtrlOut (hst : s.ctrl.state ≠ .STALLED) (hd : d.length ≤ Config.mps0) (h : s.ctrlOut d = .ok t) :
    exec (.evCtrlOut d) s = .next t.taken := by
  have hon : s.ctrlOutEnabled d.length = true := by simp [State.ctrlOutEnabled, hst, hd]
  simp only [exec, execEvCtrlOut, hon, h]
  rfl

/-- Outside an OUT data stage: what an OUT packet does in each state of the control machine. -/
theorem exec_evCtrlOut_of_state (hd : d.length ≤ Config.mps0) :
    (s.ctrl.state = .IDLE → exec (.evCtrlOut d) s = .next s.taken) ∧
    (s.ctrl.state = .STATUS_OUT →
      exec (.evCtrlOut d) s = .next ({ s with ctrl := { s.ctrl with state := .IDLE } } : State).taken) ∧
    (s.ctrl.state = .DATA_IN ∨ s.ctrl.state = .LAST_DATA_IN → exec (.evCtrlOut d) s =
      .next ({ s with ctrl := { s.ctrl with in0 := .EMPTY, state := .IDLE, zlp := false } } : State).taken) ∧
    (s.ctrl.state = .STATUS_IN → exec (.evCtrlOut d) s = .next s.stall.taken) := by
  refine ⟨fun h => ?_, fun h => ?_, fun h => ?_, fun h => ?_⟩
  · exact exec_evCtrlOut (by simp [h]) hd (by simp only [State.ctrlOut, h])
  · exact exec_evCtrlOut (by simp [h]) hd (by simp only [State.ctrlOut, h])
  · rcases h with h | h <;> exact exec_evCtrlOut (by simp [h]) hd (by simp only [State.ctrlOut, h])
  · exact exec_evCtrlOut (by simp [h]) hd (by simp only [State.ctrlOut, h])

/-- An OUT data stage is in progress. -/
def State.InDataOut (s : State) : Prop := s.ctrl.state = .DATA_OUT ∨ s.ctrl.state = .LAST_DATA_OUT

theorem exec_evCtrlOut_data (hst : s.InDataOut) (hd : d.length ≤ Config.mps0) (h : s.ctrlOutData d = .ok t) :
    exec (.evCtrlOut d) s = .next t.taken := by
  rcases hst with hst | hst <;> exact exec_evCtrlOut (by simp [hst]) hd (by simpa only [State.ctrlOut, hst] using h)

theorem State.ctrlOutData_tooLong (h : s.ctrl.length < s.ctrl.cursor + d.length) : s.ctrlOutData d = .ok s.stall :=
  if_pos h

/-- The packet is stored in the control buffer. -/
def State.stored (s : State) (d : List Byte) : State :=
  { s with ctrl := { s.ctrl with
      buf := s.ctrl.buf.writeBytes s.ctrl.cursor d, cursor := s.ctrl.cursor + d.length } }

/-- A packet of an OUT data stage that is not too long is stored, and completes the data, or is short, or is followed by
more. -/
theorem State.ctrlOutData_stored (h : s.ctrl.cursor + d.length ≤ s.ctrl.length)
    (hcap : s.ctrl.length ≤ Config.ctrlBufCap) :
    s.ctrlOutData d =
      if s.ctrl.cursor + d.length = s.ctrl.length then
        (s.stored d).serveRequest ((s.stored d).ctrl.buf.readBytes 0 s.ctrl.length)
      else if d.length < Config.mps0 then .ok (s.stored d).stall
      else .ok { s.stored d with ctrl := { (s.stored d).ctrl with
        state := dataOutState (s.ctrl.length - (s.ctrl.cursor + d.length)) } } := by
  have hfit : checkSpace .cbuf s.ctrl.cursor d.length = .ok () := checkSpace_eq_ok.2 (h.trans hcap)
  simp only [State.ctrlOutData, if_neg (Nat.not_lt.2 h), hfit]
  rfl

/-- The packet that completes the data has its request dispatched with the bytes stored, and completed. -/
theorem exec_evCtrlOut_served (hst : s.InDataOut) (hd : d.length ≤ Config.mps0)
    (hend : s.ctrl.cursor + d.length = s.ctrl.length) (hcap : s.ctrl.length ≤ Config.ctrlBufCap)
    (h : (s.stored d).dispatchRequest s.request ((s.stored d).ctrl.buf.readBytes 0 s.ctrl.length) = .ok (t, r)) :
    exec (.evCtrlOut d) s = .next (t.completeRequest r).taken := by
  refine exec_evCtrlOut_data hst hd ?_
  rw [State.ctrlOutData_stored hend.le hcap, if_pos hend]
  exact congrArg (Except.map _) h

/-- Where the bytes of a packet lie in the control buffer. -/
theorem State.stored_read (s : State) (d : List Byte) :
    (∀ k, k < d.length → (s.stored d).ctrl.buf.read (s.ctrl.cursor + k) = d.getD k 0) ∧
    (∀ x, x < s.ctrl.cursor ∨ s.ctrl.cursor + d.length ≤ x → (s.stored d).ctrl.buf.read x = s.readByte .cbuf x) :=
  ⟨fun _ hk => Memory.read_writeBytes_at _ _ _ hk, fun _ hx => Memory.read_writeBytes_other _ _ _ hx⟩

end

/-- Settles O46: each state of the control machine has its outcome; the packet that completes the data is stored, and what
dispatch answers then is the status stage or a stall. -/
theorem controlOutStages : Obligations.ControlOutStages := by
  unfold Obligations.ControlOutStages
  refine ⟨fun s r v0 v1 i0 i1 l0 l1 ty hty hpos => ?_, fun s d h => waits_evCtrlOut h, fun s d hd => ?_⟩
  · intro p w c
    have hd : (requestOf p).dirIn = false := hty
    have hw : (requestOf p).wLength.toNat = w := toNat_half l0 l1
    refine ⟨fun hlong => exec_evSetup_tooLong hd (hlong.trans_eq hw.symm), fun hfits => ?_⟩
    rw [exec_evSetup_dataOut hd (hw ▸ Nat.pos_of_ne_zero hpos) (hw.trans_le hfits), State.awaitsData, hw]
    rfl
  obtain ⟨hidle, hsout, hdin, hsin⟩ := exec_evCtrlOut_of_state (s := s) hd
  refine ⟨hidle, hsout, hdin, fun h => ?_, fun hst hlt hcap => ?_, fun hst hend hcap hdir => ?_⟩
  · rcases h with h | ⟨hst, hlong⟩
    · exact hsin h
    · exact exec_evCtrlOut_data hst hd (State.ctrlOutData_tooLong hlong)
  · refine ⟨(s.stored d).ctrl.buf, ?_, s.stored_read d⟩
    have hx := State.ctrlOutData_stored hlt.le hcap
    rw [if_neg hlt.ne] at hx
    split <;> rename_i hshort
    · rw [if_pos hshort] at hx
      exact exec_evCtrlOut_data hst hd hx
    · rw [if_neg hshort] at hx
      exact exec_evCtrlOut_data hst hd hx
  · refine ⟨(s.stored d).ctrl.buf, ?_⟩
    intro served
    have hserved : (s.stored d).dispatchRequest s.request ((s.stored d).ctrl.buf.readBytes 0 s.ctrl.length) = served := by
      rw [Memory.readBytes_eq_map]
      simp only [Nat.zero_add, State.stored, hend]
      rfl
    have hdef : Definitive served := State.dispatchRequest_definitive _ _ _
    refine ⟨fun u resp h => ?_, fun u h => ?_, hdef.ne_misuse, hdef.ne_pass, s.stored_read d⟩
    · have hreq : u.request = (s.stored d).request := State.dispatchRequest_request (hserved.trans h)
      rw [exec_evCtrlOut_served hst hd hend hcap (hserved.trans h), State.completeRequest_status]
      · rfl
      · rw [hreq]
        exact fun hin => nomatch hin.1.symm.trans hdir
    · exact exec_evCtrlOut_served hst hd hend hcap (hserved.trans h)

section
variable {s t : State}

/-! ## EV_CTRL_IN_DONE (R226, R229, R246) -/

/-- The loaded packet goes to the host. -/
theorem exec_evCtrlInDone (h : s.ctrl.in0 = .LOADED) (ht : s.ctrlInDone = t) :
    exec .evCtrlInDone s = .next t.taken := by
  subst ht
  exact if_pos h

theorem State.ctrlInDone_dataIn (h : s.ctrl.state = .DATA_IN) : s.ctrlInDone = { s with
    hostIn := s.hostIn ++ [(Config.ep0In, s.ctrl.in0Data)]
    ctrl := ({ s.ctrl with in0 := .EMPTY } : Ctrl).sendNextIn } := by
  simp only [State.ctrlInDone, h]
  rfl

theorem State.ctrlInDone_lastDataIn (h : s.ctrl.state = .LAST_DATA_IN) : s.ctrlInDone = { s with
    hostIn := s.hostIn ++ [(Config.ep0In, s.ctrl.in0Data)]
    ctrl := { s.ctrl with in0 := .EMPTY, state := .STATUS_OUT } } := by
  simp only [State.ctrlInDone, h]
  rfl

theorem State.ctrlInDone_statusIn (h : s.ctrl.state = .STATUS_IN) : s.ctrlInDone = { s with
    hostIn := s.hostIn ++ [(Config.ep0In, s.ctrl.in0Data)]
    ctrl := { s.ctrl with in0 := .EMPTY, state := .IDLE, onDone := none }
    usb := s.usb.complete s.ctrl.onDone } := by
  simp only [State.ctrlInDone, h]
  rfl

end

/-- Settles O47: the packet is logged, and the state says what follows it. -/
theorem evCtrlInDone : Obligations.EvCtrlInDone := by
  unfold Obligations.EvCtrlInDone
  intro s c t k b
  refine ⟨fun h => if_neg (by simp [h]),
    fun h => ⟨fun hst => ?_, fun hst => ?_, fun hst hend => ?_, fun hst _ hmore => ?_⟩⟩
  · exact exec_evCtrlInDone h (State.ctrlInDone_lastDataIn hst)
  · rw [exec_evCtrlInDone h (State.ctrlInDone_statusIn hst)]
    rcases s.ctrl.onDone with _ | ⟨a⟩ <;> rfl
  · rcases c.sendNextIn_cases with ⟨-, -, hn⟩ | ⟨hne, -⟩
    · rw [exec_evCtrlInDone h (State.ctrlInDone_dataIn hst), hn]
      rfl
    · exact absurd hend hne
  · rcases c.sendNextIn_cases with ⟨hc, hz, -⟩ | ⟨-, hn⟩
    · exact absurd ⟨hc, hz⟩ hmore
    · rw [exec_evCtrlInDone h (State.ctrlInDone_dataIn hst), hn]
      rfl

end Sys2Proof.Machine
end

section
/-! PROOF. IN transfers: what EV_SETUP leaves, and the packets that follow (O52). -/

namespace Sys2Proof.Machine

section
variable {s t : State} {c : Ctrl} {p resp r : List Byte} {n : Nat}

/-! ## An IN data stage in progress (43_control_transfer.md R226, R228) -/

/-- How many packets of the data stage follow the loaded one: those of the rest of the response, and the zero-length
packet. -/
def Ctrl.packetsLeft (c : Ctrl) : Nat := (c.length - c.cursor + 63) / 64 + if c.zlp then 1 else 0

/-- A packet of an IN data stage is loaded; the state tells whether it is the last one. -/
structure Ctrl.Sending (c : Ctrl) : Prop where
  loaded : c.in0 = .LOADED
  data_le : c.in0Data.length ≤ Config.mps0
  resp : c.resp.length = c.length
  cursor_le : c.cursor ≤ c.length
  state : c.state = if c.packetsLeft = 0 then .LAST_DATA_IN else .DATA_IN

/-- The bytes of the data stage that the host has not taken: the loaded packet and the rest of the response. -/
def Ctrl.unsent (c : Ctrl) : List Byte := c.in0Data ++ c.resp.drop c.cursor

theorem Ctrl.packetsLeft_eq_zero (hc : c.cursor ≤ c.length) :
    c.packetsLeft = 0 ↔ c.cursor = c.length ∧ c.zlp = false := by
  unfold Ctrl.packetsLeft
  cases c.zlp
  · simp only [Bool.false_eq_true, if_false, and_true]
    omega
  · simp

/-- `send_next_in` loads the next packet of what is left of the response. -/
theorem Ctrl.sendNextIn_sending (hc : c.cursor ≤ c.length) (hr : c.resp.length = c.length) :
    c.sendNextIn.Sending ∧ c.sendNextIn.unsent = c.resp.drop c.cursor ∧
    c.sendNextIn.packetsLeft + 1 = max 1 c.packetsLeft := by
  rcases c.sendNextIn_cases with ⟨hend, hz, h⟩ | ⟨hmore, h⟩ <;> rw [h]
  · refine ⟨⟨rfl, Nat.zero_le _, hr, hc, ?_⟩, rfl, ?_⟩
    · simp [Ctrl.packetsLeft, hend]
    · simp [Ctrl.packetsLeft, hend, hz]
  · have hmps : Config.mps0 = 64 := rfl
    have hk : c.cursor + min Config.mps0 (c.length - c.cursor) ≤ c.length := by omega
    refine ⟨⟨rfl, by simp, hr, hk, ?_⟩, ?_, ?_⟩
    · simp [Ctrl.packetsLeft_eq_zero, hk]
    · simp only [Ctrl.unsent, ← List.drop_drop, List.take_append_drop]
    · rw [hmps] at hk ⊢
      unfold Ctrl.packetsLeft
      cases hz : c.zlp <;> simp [hz] at hmore ⊢ <;> omega

/-- The first packet of an IN data stage (R222, R228). -/
theorem Ctrl.startIn_sendNextIn (c : Ctrl) (resp : List Byte) (w : Nat) :
    let r := resp.take w
    let zlp := decide (0 < r.length ∧ r.length < w ∧ r.length % Config.mps0 = 0)
    (c.startIn resp w).sendNextIn = { c with
      resp := r, length := r.length, cursor := min Config.mps0 r.length, zlp := zlp
      in0 := .LOADED, in0Len := min Config.mps0 r.length, in0Data := r.take Config.mps0
      state := if r.length ≤ Config.mps0 ∧ zlp = false then .LAST_DATA_IN else .DATA_IN } := by
  intro r zlp
  have hstart : c.startIn resp w = { c with resp := r, length := r.length, cursor := 0, zlp := zlp } := by
    simp only [Ctrl.startIn_eq, r, zlp, Bool.decide_and, Bool.and_assoc]
  have hdata : r.take (min Config.mps0 r.length) = r.take Config.mps0 := List.take_eq_take_min.symm
  have hlast : min Config.mps0 r.length = r.length ↔ r.length ≤ Config.mps0 := by omega
  rw [hstart]
  rcases Ctrl.sendNextIn_cases { c with resp := r, length := r.length, cursor := 0, zlp := zlp } with
    ⟨hend, hz, -⟩ | ⟨-, h⟩
  · exact absurd hend (of_decide_eq_true hz).1.ne
  · refine h.trans ?_
    simp only [Nat.zero_add, Nat.sub_zero, List.drop_zero, hdata, hlast, List.length_take]

/-! ## The packets that the host takes (R229, R237) -/

/-- From `s` to `t` the host has taken `n` packets that carry `r`, and the control machine is back in IDLE; only the control
context, its buffer kept, the host's log and the reply have changed. -/
def Delivered (s t : State) (r : List Byte) (n : Nat) : Prop :=
  ∃ packets : List (List Byte),
    t.ctrl.state = .IDLE ∧ packets.length = n ∧ packets.flatten = r ∧ (∀ b ∈ packets, b.length ≤ Config.mps0) ∧
    t = { s with
      ctrl := t.ctrl, hostIn := s.hostIn ++ packets.map (fun b => ((⟨.IN, 0⟩ : EpAddr), b)), reply := .event } ∧
    t.ctrl.buf = s.ctrl.buf

/-- The host has taken the loaded packet, which leaves the control context `c`. -/
def State.packetTaken (s : State) (c : Ctrl) : State :=
  ({ s with hostIn := s.hostIn ++ [(Config.ep0In, s.ctrl.in0Data)], ctrl := c } : State).taken

/-- The host takes one packet more, before the others. -/
theorem Delivered.cons (hb : s.ctrl.in0Data.length ≤ Config.mps0) (hbuf : c.buf = s.ctrl.buf)
    (h : Delivered (s.packetTaken c) t r n) : Delivered s t (s.ctrl.in0Data ++ r) (n + 1) := by
  obtain ⟨packets, hidle, hlen, hflat, hle, ht, hkept⟩ := h
  refine ⟨s.ctrl.in0Data :: packets, hidle, by simp [hlen], by simp [hflat], ?_, ?_, hkept.trans hbuf⟩
  · intro x hx
    rcases List.mem_cons.1 hx with rfl | hx
    · exact hb
    · exact hle x hx
  · have hlog : s.hostIn ++ (s.ctrl.in0Data :: packets).map (fun b => ((⟨.IN, 0⟩ : EpAddr), b)) =
        s.hostIn ++ [(Config.ep0In, s.ctrl.in0Data)] ++ packets.map (fun b => ((⟨.IN, 0⟩ : EpAddr), b)) :=
      List.append_cons _ _ _
    rw [hlog, ht]
    rfl

/-- The status stage of an IN transfer ends it. -/
theorem execAll_statusOut (hst : s.ctrl.state = .STATUS_OUT) (hf : s.fault = none) :
    ∃ t, execAll [.evCtrlOut []] s = some t ∧ Delivered s t [] 0 :=
  ⟨_, execAll_cons ((exec_evCtrlOut_of_state (Nat.zero_le _)).2.1 hst) hf,
    [], rfl, rfl, rfl, by simp, by simp [State.taken], rfl⟩

/-- The host's events of an IN transfer: `n` packets taken, then the status packet. -/
def inTransferEvents (n : Nat) : List Instr := List.replicate n .evCtrlInDone ++ [.evCtrlOut []]

/-- An IN data stage ends in IDLE after the packets that are left, which carry what is unsent. -/
theorem execAll_inTransferEvents : ∀ (n : Nat) {s : State}, s.ctrl.Sending → s.fault = none → s.ctrl.packetsLeft = n →
    ∃ t, execAll (inTransferEvents (n + 1)) s = some t ∧ Delivered s t s.ctrl.unsent (n + 1) := by
  intro n
  induction n with
  | zero =>
    intro s hs hf hn
    have hst : s.ctrl.state = .LAST_DATA_IN := hs.state.trans (if_pos hn)
    have hend := ((Ctrl.packetsLeft_eq_zero hs.cursor_le).1 hn).1
    have hunsent : s.ctrl.unsent = s.ctrl.in0Data ++ [] := by
      rw [Ctrl.unsent, hend, ← hs.resp, List.drop_length]
    have hx := exec_evCtrlInDone hs.loaded (State.ctrlInDone_lastDataIn hst)
    obtain ⟨t, ht, hdel⟩ :=
      execAll_statusOut (s := s.packetTaken { s.ctrl with in0 := .EMPTY, state := .STATUS_OUT }) rfl hf
    exact ⟨t, (execAll_cons hx hf).trans ht, hunsent ▸ hdel.cons hs.data_le rfl⟩
  | succ n ih =>
    intro s hs hf hn
    have hst : s.ctrl.state = .DATA_IN := hs.state.trans (if_neg (by omega))
    obtain ⟨hnext, hunsent, hleft⟩ :=
      Ctrl.sendNextIn_sending (c := { s.ctrl with in0 := .EMPTY }) hs.cursor_le hs.resp
    have hx := exec_evCtrlInDone hs.loaded (State.ctrlInDone_dataIn hst)
    have hbuf := Ctrl.sendNextIn_buf { s.ctrl with in0 := .EMPTY }
    rw [show ({ s.ctrl with in0 := .EMPTY } : Ctrl).packetsLeft = n + 1 from hn, Nat.max_eq_right (by omega)] at hleft
    generalize ({ s.ctrl with in0 := .EMPTY } : Ctrl).sendNextIn = c at *
    obtain ⟨t, ht, hdel⟩ := ih (s := s.packetTaken c) hnext hf (Nat.succ.inj hleft)
    have hcons := hdel.cons hs.data_le hbuf
    rw [show (s.packetTaken c).ctrl.unsent = s.ctrl.resp.drop s.ctrl.cursor from hunsent] at hcons
    exact ⟨t, (execAll_cons hx hf).trans ht, hcons⟩

/-- The number of packets of an IN data stage (R228, R255). -/
def inPacketCount (r : List Byte) (w : Nat) : Nat :=
  max 1 ((r.length + 63) / 64) + (if 0 < r.length ∧ r.length < w ∧ r.length % 64 = 0 then 1 else 0)

/-- A data stage just begun ends in IDLE after its packets, which carry the response cut to what the host asked. -/
theorem execAll_startIn {c : Ctrl} {w : Nat} (hs : s.ctrl = (c.startIn resp w).sendNextIn) (hf : s.fault = none) :
    ∃ t, execAll (inTransferEvents (inPacketCount (resp.take w) w)) s = some t ∧
      Delivered s t (resp.take w) (inPacketCount (resp.take w) w) := by
  obtain ⟨hnext, hunsent, hleft⟩ := Ctrl.sendNextIn_sending (c := c.startIn resp w) (Nat.zero_le _) rfl
  rw [← hs] at hnext hunsent hleft
  have hcount : inPacketCount (resp.take w) w = s.ctrl.packetsLeft + 1 := by
    rw [hleft, Ctrl.startIn_eq, Ctrl.packetsLeft, inPacketCount]
    simp only [Nat.sub_zero, Bool.and_eq_true, decide_eq_true_eq, and_assoc, show Config.mps0 = 64 from rfl]
    split <;> omega
  rw [hcount]
  have h := execAll_inTransferEvents _ hnext hf rfl
  rwa [hunsent, Ctrl.startIn_eq] at h

/-! ## EV_SETUP (R221, R222) -/

/-- An IN request that is handled: the first packet of its response is loaded. -/
theorem exec_evSetup_dataIn (hd : (requestOf p).dirIn = true) (hw : 0 < (requestOf p).wLength.toNat)
    (h : (s.begun p).dispatchRequest (requestOf p) [] = .ok (t, .handled resp)) : exec (.evSetup p) s =
      .next ({ t with ctrl := (t.ctrl.startIn resp (requestOf p).wLength.toNat).sendNextIn } : State).taken := by
  have hreq : t.request = requestOf p := State.dispatchRequest_request h
  rw [exec_evSetup_served (by simp [hd]) h, State.completeRequest_data resp (hreq ▸ hd) (hreq ▸ hw), hreq]

/-- What is delivered after a step that changed the control context, its buffer kept, and the reply. -/
theorem Delivered.of_ctrl {q : Reply} (hb : c.buf = s.ctrl.buf)
    (h : Delivered { s with ctrl := c, reply := q } t r n) : Delivered s t r n := by
  obtain ⟨packets, hidle, hlen, hflat, hle, ht, hkept⟩ := h
  exact ⟨packets, hidle, hlen, hflat, hle, ht, hkept.trans hb⟩

end

/-- Settles O52: a SETUP completes with what dispatch answers; an IN data stage is followed packet by packet, each loaded by
`send_next_in` with the next bytes of the response. -/
theorem inTransferTerminates : Obligations.InTransferTerminates := by
  unfold Obligations.InTransferTerminates
  intro count delivered
  refine ⟨fun s p => ?_, fun s c resp w _ hf hs => execAll_startIn hs hf⟩
  intro req w s1 served
  have hdef : Definitive served := State.dispatchRequest_definitive _ _ _
  refine ⟨fun hnow => ⟨fun u resp h hw => ?_, fun u resp h hw => exec_evSetup_status hw h,
    fun u h => exec_evSetup_served (r := .notSupported) ?_ h, hdef.ne_misuse, hdef.ne_pass⟩,
    fun hd => ⟨State.dispatchRequest_of_dirIn _ _ hd, fun resp h hw hf => ?_⟩⟩
  · have hd : req.dirIn = true := hnow.resolve_right hw
    rw [exec_evSetup_dataIn hd (Nat.pos_of_ne_zero hw) h, Ctrl.startIn_sendNextIn]
    rfl
  · rintro ⟨hd, hpos⟩
    rcases hnow with h1 | h1
    · exact nomatch h1.symm.trans hd
    · exact absurd h1 hpos.ne'
  · have hx := exec_evSetup_dataIn hd (Nat.pos_of_ne_zero hw) h
    obtain ⟨t, ht, hdel⟩ := execAll_startIn
      (s := ({ s1 with ctrl := (s1.ctrl.startIn resp w).sendNextIn } : State).taken) rfl hf
    exact ⟨t, (execAll_cons hx hf).trans ht,
      hdel.of_ctrl (c := (s1.ctrl.startIn resp w).sendNextIn) (Ctrl.sendNextIn_buf _)⟩

end Sys2Proof.Machine
end

section
/-! PROOF. SET_ADDRESS latches the address for the status stage (O50). -/

namespace Sys2Proof.Machine

section
variable {s t u : State} {req : Request} {p q d data : List Byte} {r : HandlerResult}

/-! ## The request (43_control_transfer.md R245) -/

/-- The address waits for the status stage. -/
def State.latched (s : State) (a : BitVec 7) : State :=
  { s with ctrl := { s.ctrl with onDone := some (.setAddress a) } }

theorem State.setAddressRequest_eq (s : State) (req : Request) : (.ok (s.setAddressRequest req) : Except Stop _) =
    if req.wValue.toNat ≤ 127 ∧ req.wLength = 0 then .ok (s.latched (req.wValue.extractLsb' 0 7), .handled [])
    else .ok (s, .notSupported) := by
  unfold State.setAddressRequest
  split <;> rfl

/-! ## What drops the latch (R246) -/

theorem State.completeRequest_onDone (h : t.ctrl.onDone = none) : (t.completeRequest r).ctrl.onDone = none := by
  rcases t.completeRequest_cases r with ⟨-, hx⟩ | ⟨resp, -, ⟨-, -, hx⟩ | ⟨-, hx⟩⟩ <;> rw [hx]
  · rfl
  · rw [Ctrl.startIn_sendNextIn]
    exact h
  · exact h

theorem State.setupPacket_ne_misuse (s : State) (p : List Byte) (c : FaultCode) :
    s.setupPacket p ≠ .error (.misuse c) := by
  unfold State.setupPacket
  simp only
  split
  · split <;> simp
  · exact fun h => (State.dispatchRequest_definitive _ _ _).ne_misuse c (except_map_eq_error.1 h)

/-- A SETUP of any other request drops the latch. -/
theorem evSetup_drops_latch (hq : q.getD 1 0 ≠ 0x05) (h : exec (.evSetup q) s = .next t) : t.ctrl.onDone = none := by
  rcases State.conclude_eq_next.1 h with h | ⟨c, h, -⟩
  · obtain ⟨v, hv, rfl⟩ := except_map_eq_ok.1 h
    rcases State.setupPacket_eq_ok hv with ⟨-, -, rfl⟩ | ⟨-, -, -, rfl⟩ | ⟨-, hserve⟩
    · rfl
    · rfl
    · obtain ⟨⟨u, r⟩, hu, rfl⟩ := except_map_eq_ok.1 hserve
      refine State.completeRequest_onDone ?_
      rcases State.dispatchRequest_ctrl hu with hc | ⟨ha, -⟩
      · rw [hc]
        rfl
      · exact absurd ha.2.1 hq
  · exact absurd (except_map_eq_error.1 h) (s.setupPacket_ne_misuse q c)

/-- A bus reset drops the latch and writes 0 (70_reset_and_hazards.md R352, log 25). -/
theorem evBusReset_address (h : exec .evBusReset s = .next t) : t.usb.address = 0 ∧ t.ctrl.onDone = none := by
  rcases State.conclude_eq_next.1 h with h | ⟨c, h, -⟩
  · obtain ⟨v, hv, rfl⟩ := except_map_eq_ok.1 h
    obtain ⟨w, -, rfl⟩ := State.busReset_eq_ok.1 hv
    exact ⟨rfl, rfl⟩
  · have habort : s.abortChunk = .error (.misuse c) := except_map_eq_error.1 (except_map_eq_error.1 h)
    exact absurd (State.abortChunk_eq_error habort).1 (by simp)

/-- Only the status stage and a bus reset write the address. -/
theorem evSetup_address (h : exec (.evSetup q) s = .next t) : t.usb.address = s.usb.address := by
  by_contra hne
  rcases exec_address h hne with hi | ⟨hi, -⟩ <;> cases hi

/-- The low seven bits of wValue are those of its low byte. -/
theorem extractLsb'_half (lo hi : Byte) : (hi ++ lo : Half).extractLsb' 0 7 = lo.extractLsb' 0 7 := by
  apply BitVec.eq_of_toNat_eq
  simp [toNat_half]
  omega

end

/-- Settles O50: SET_ADDRESS writes the latch alone, and each event after it either applies the latch or drops it. -/
theorem setAddressLatch : Obligations.SetAddressLatch := by
  unfold Obligations.SetAddressLatch
  refine ⟨fun s req data hty hrq => (s.dispatch_setAddress data hty hrq).trans (s.setAddressRequest_eq req),
    fun s a0 a1 i0 i1 => ?_⟩
  intro p
  have hval : (requestOf p).wValue.toNat = a0.toNat + 256 * a1.toNat := toNat_half a0 a1
  have hw : (requestOf p).wLength.toNat = 0 := toNat_half 0 0
  have hx : (s.begun p).dispatchRequest (requestOf p) [] = _ :=
    (State.dispatch_setAddress _ _ rfl rfl).trans (State.setAddressRequest_eq _ _)
  refine ⟨fun hbig => ?_, fun hsmall => ?_⟩
  · rw [if_neg (by omega)] at hx
    exact ⟨_, exec_evSetup_served (by omega) hx, rfl, rfl, rfl, rfl⟩
  · have ha : (requestOf p).wValue.extractLsb' 0 7 = a0.extractLsb' 0 7 := extractLsb'_half a0 a1
    rw [if_pos ⟨by omega, BitVec.eq_of_toNat_eq hw⟩, ha] at hx
    intro t
    refine ⟨exec_evSetup_status hw hx, exec_evCtrlInDone rfl (State.ctrlInDone_statusIn rfl), fun d u h hd => ?_,
      fun q u h => ⟨evSetup_address (s := t) h, fun hq => evSetup_drops_latch hq h⟩, fun u h => evBusReset_address h⟩
    rw [(exec_evCtrlOut_of_state hd).2.2.2 rfl] at h
    cases h
    exact ⟨rfl, rfl⟩

end Sys2Proof.Machine
end

section
/-! PROOF. CTRL_REGISTER_FILTER, BRIDGE_INIT and CTRL_READ_STATE (O55). -/

namespace Sys2Proof.Machine

section
variable {s : State} {value mask : Byte}

/-! ## The filter table (43_control_transfer.md R238; 44_cdc_bridge.md R280) -/

theorem State.registerFilter_full (f : Filter) (h : s.filters.length = Config.filterCap) :
    s.registerFilter f = .error (.misuse .FILTER_TABLE_FULL) := if_pos h

theorem filterTable_full (value mask : Byte) (h : s.filters.length = Config.filterCap) :
    Faults .FILTER_TABLE_FULL (.ctrlRegisterFilter 1 value mask) s ∧ Faults .FILTER_TABLE_FULL .bridgeInit s :=
  ⟨faults_of_conclude rfl (State.registerFilter_full _ h),
    faults_of_conclude rfl (except_map_eq_error.2 (State.registerFilter_full _ h))⟩

theorem exec_ctrlRegisterFilter (value mask : Byte) (h : s.filters.length ≠ Config.filterCap) :
    exec (.ctrlRegisterFilter 1 value mask) s = .next { s with
      filters := s.filters ++ [⟨mask, value, .cdcClass⟩], reply := .result .OK .unit } := by
  change s.conclude ((s.registerFilter ⟨mask, value, .cdcClass⟩).map (·.answer .OK .unit)) = _
  rw [State.registerFilter_eq_ok.2 ⟨h, rfl⟩]
  rfl

theorem exec_bridgeInit (h : s.filters.length ≠ Config.filterCap) : exec .bridgeInit s = .next { s with
    filters := s.filters ++ [cdcFilter], br := Bridge.reset, reply := .result .OK .unit } := by
  simp only [exec, execBridgeInit, State.bridgeInit, State.registerFilter_eq_ok.2 ⟨h, rfl⟩]
  rfl

/-! ## The control state view (30_encoding.md R97; 43_control_transfer.md R239) -/

/-- The view is the number whose base-256 digits are the state code, the address and the configuration. -/
theorem State.toNat_ctrlView (s : State) : s.ctrlView.toNat =
    (ctrlStateBits s.ctrl.state).toNat + 2 ^ 8 * s.usb.address.toNat + 2 ^ 16 * s.usb.config.toNat := by
  have hb := (ctrlStateBits s.ctrl.state).isLt
  have ha := s.usb.address.isLt
  have hv := s.usb.config.isLt
  have hlow : (ctrlStateBits s.ctrl.state).toNat ||| 2 ^ 8 * s.usb.address.toNat =
      2 ^ 8 * s.usb.address.toNat + (ctrlStateBits s.ctrl.state).toNat := by
    rw [Nat.or_comm, Nat.two_pow_add_eq_or_of_lt (by omega)]
  simp only [State.ctrlView, BitVec.toNat_or, BitVec.toNat_shiftLeft, BitVec.toNat_setWidth]
  rw [Nat.mod_eq_of_lt (by omega), Nat.mod_eq_of_lt (by omega), Nat.mod_eq_of_lt (by omega),
    Nat.shiftLeft_eq, Nat.shiftLeft_eq, Nat.mod_eq_of_lt (by omega), Nat.mod_eq_of_lt (by omega),
    mul_comm _ (2 ^ 8), mul_comm _ (2 ^ 16), hlow, Nat.or_comm, ← Nat.two_pow_add_eq_or_of_lt (by omega)]
  omega

/-- A field of the view, by division. -/
theorem State.toNat_extractLsb'_ctrlView (s : State) (k w : Nat) : (s.ctrlView.extractLsb' k w).toNat =
    ((ctrlStateBits s.ctrl.state).toNat + 2 ^ 8 * s.usb.address.toNat + 2 ^ 16 * s.usb.config.toNat) / 2 ^ k % 2 ^ w := by
  rw [BitVec.extractLsb'_toNat, s.toNat_ctrlView, Nat.shiftRight_eq_div_pow]

/-- The state's code stands alone in the low byte. -/
theorem State.ctrlView_state (s : State) : s.ctrlView.extractLsb' 0 8 = (ctrlStateBits s.ctrl.state).setWidth 8 := by
  apply BitVec.eq_of_toNat_eq
  rw [s.toNat_extractLsb'_ctrlView, BitVec.toNat_setWidth]
  omega

theorem State.ctrlView_address (s : State) :
    s.ctrlView.extractLsb' 8 7 = s.usb.address ∧ s.ctrlView.getLsbD 15 = false := by
  have hb := (ctrlStateBits s.ctrl.state).isLt
  have ha := s.usb.address.isLt
  refine ⟨BitVec.eq_of_toNat_eq ?_, ?_⟩
  · rw [s.toNat_extractLsb'_ctrlView]
    omega
  · have hbit : s.ctrlView.toNat / 2 ^ 15 % 2 = 0 := by
      rw [s.toNat_ctrlView]
      omega
    rw [BitVec.getLsbD, Nat.testBit_eq_decide_div_mod_eq, hbit]
    rfl

theorem State.ctrlView_config (s : State) :
    s.ctrlView.extractLsb' 16 8 = s.usb.config ∧ s.ctrlView.extractLsb' 24 8 = 0#8 := by
  have hb := (ctrlStateBits s.ctrl.state).isLt
  have ha := s.usb.address.isLt
  have hv := s.usb.config.isLt
  refine ⟨BitVec.eq_of_toNat_eq ?_, BitVec.eq_of_toNat_eq ?_⟩ <;> rw [s.toNat_extractLsb'_ctrlView]
  · omega
  · rw [BitVec.toNat_ofNat]
    omega

end

/-- Settles O55: the filter goes to the table's end while it has room, and the view's fields do not overlap. -/
theorem registerInitReadState : Obligations.RegisterInitReadState := by
  unfold Obligations.RegisterInitReadState
  refine ⟨fun s h value mask hne => refuses_ctrlRegisterFilter s value mask hne,
    fun s value mask => ⟨filterTable_full value mask,
      fun h => ⟨exec_ctrlRegisterFilter value mask h, exec_bridgeInit h⟩⟩,
    fun s => ⟨rfl, ?_, s.ctrlView_address.1, s.ctrlView_address.2, s.ctrlView_config⟩⟩
  rw [s.ctrlView_state]
  cases s.ctrl.state <;> rfl

end Sys2Proof.Machine
end

section
/-! SUPPORT. Flow coupling (44_cdc_bridge.md R287, R288): what `update_pause` and the bulk OUT callback leave. -/

namespace Sys2Proof.Machine

/-! ## One endpoint -/

/-- An endpoint between two steps is synchronised already. -/
theorem Endpoint.Inv.sync_eq_self {d : Dir} {e : Endpoint} (h : e.Inv d) : e.sync = e := by
  cases hp : e.paused with
  | true =>
    rw [Endpoint.sync, if_pos hp, ← h.stat, ← h.synced]
  | false =>
    have hu := h.unpaused_eq_self hp
    rwa [Endpoint.unpaused, ← hp] at hu

/-- `e` paused exactly when `space` is below two packets' room, and synchronised (R288). -/
def Endpoint.coupled (e : Endpoint) (space : Nat) : Endpoint :=
  ({ e with paused := decide (space < 2 * e.mps) } : Endpoint).sync

theorem Endpoint.coupled_synced (e : Endpoint) (space : Nat) :
    ({ e with paused := decide (space < 2 * e.mps) } : Endpoint).Synced (e.coupled space) := Endpoint.sync_synced _

theorem Endpoint.coupled_sameLayout (e : Endpoint) (space : Nat) : e.SameLayout (e.coupled space) :=
  { Endpoint.sameLayout_sync { e with paused := decide (space < 2 * e.mps) } with }

/-- Where the pause is as it should be, coupling changes nothing. -/
theorem Endpoint.Inv.coupled_eq_self {d : Dir} {e : Endpoint} {space : Nat} (h : e.Inv d)
    (hp : e.paused = decide (space < 2 * e.mps)) : e.coupled space = e := by
  rw [Endpoint.coupled, ← hp]
  exact h.sync_eq_self

/-! ## `update_pause` -/

section
variable {s : State}

/-- `update_pause` of a configured endpoint: nothing, or the pause set as the room demands, synchronised or deferred. -/
theorem State.updatePause_eq {e : Endpoint} (he : s.ep Config.epBulkOut = e) (hc : e.cfg = true) : s.updatePause =
    .ok (if e.paused = decide (s.txrb.space < 2 * e.mps) then s
      else s.syncOrDefer Config.epBulkOut { e with paused := decide (s.txrb.space < 2 * e.mps) }) := by
  subst he
  have hfor : s.epFor .OUT Config.epBulkOut = .ok (s.ep Config.epBulkOut) := State.epFor_eq_ok.2 ⟨rfl, hc, rfl⟩
  by_cases hroom : s.txrb.space < 2 * (s.ep Config.epBulkOut).mps <;>
    cases hp : (s.ep Config.epBulkOut).paused <;>
    simp [State.updatePause, State.epPause, State.epUnpause, hfor, hc, hroom, hp, Except.map]

/-- `update_pause` between two steps. -/
theorem State.EndpointInv.updatePause (hs : s.EndpointInv) : s.updatePause =
    .ok (if (s.ep Config.epBulkOut).cfg = true then
      s.setEp Config.epBulkOut ((s.ep Config.epBulkOut).coupled s.txrb.space) else s) := by
  split
  case isFalse hc => simp [State.updatePause, hc]
  case isTrue hc =>
    rw [State.updatePause_eq rfl hc]
    split
    case isTrue hp => rw [(hs.eps _).coupled_eq_self hp, State.setEp_ep]
    case isFalse hp =>
      rw [State.syncOrDefer_eq, if_neg (by simp [hs.callback])]
      rfl

/-- `update_pause` in the endpoint's callback: what it stores is, once the callback has ended, the endpoint coupled. -/
theorem State.updatePause_deferred {e : Endpoint} (he : s.ep Config.epBulkOut = e) (hc : e.cfg = true)
    (hi : e.Inv .OUT) (hin : s.usb.inCallback = some Config.epBulkOut) :
    ∃ r, s.updatePause = .ok (s.setEp Config.epBulkOut r) ∧
      (if r.syncPending then r.sync else r) = e.coupled s.txrb.space := by
  rw [State.updatePause_eq he hc]
  split
  case isTrue hp =>
    refine ⟨e, by rw [← he, State.setEp_ep], ?_⟩
    rw [if_neg (by simp [hi.synced]), hi.coupled_eq_self hp]
  case isFalse hp =>
    refine ⟨_, by rw [State.syncOrDefer_eq, if_pos hin], ?_⟩
    exact Endpoint.sync_of_pending { e with paused := decide (s.txrb.space < 2 * e.mps) } true

/-! ## The bulk OUT callback on a packet -/

/-- The endpoint whose completion callback has read a packet, before the pause is brought up to date. -/
abbrev Endpoint.served (e : Endpoint) : Endpoint := e.irqTaken.afterRead

theorem Endpoint.Inv.served {e : Endpoint} (h : e.Inv .OUT) (hc : e.cfg = true) (hf : (e.slot e.swIdx).state = .FULL) :
    e.served.Inv .OUT := (h.setIrq hc (e.irq - 1)).read hc hf

theorem Endpoint.served_sameLayout (e : Endpoint) : e.SameLayout e.served :=
  { (Endpoint.sameLayout_advance rfl : e.irqTaken.SameLayout e.served) with }

/-- The callback on a packet: the packet goes to the TX ring, its slot is acknowledged, the pause follows the room left. -/
theorem State.EndpointInv.usbIrq_bulkOut {e : Endpoint} {t : State} (hs : s.EndpointInv)
    (he : s.ep Config.epBulkOut = e) (hc : e.cfg = true) (hf : (e.slot e.swIdx).state = .FULL)
    (ht : (s.uartTransmit (s.slotBytes (e.slot e.swIdx))).1 = t) :
    s.usbIrq Config.epBulkOut = .ok (t.setEp Config.epBulkOut (e.served.coupled t.txrb.space)) := by
  have hn : Config.epBulkOut.num.val ≠ 0 := by decide
  have hinv : e.Inv .OUT := he ▸ hs.eps Config.epBulkOut
  have hlen : (e.slot e.swIdx).len ≤ Config.mpsBulk :=
    ((hinv.slotOk _).len.trans hinv.mps_le).trans (by cases e.type <;> decide)
  have hfit : (e.slot e.swIdx).pma + (e.slot e.swIdx).len ≤ Config.pmaBytes := by
    subst he
    exact hs.packetsFit Config.epBulkOut hc _ (Endpoint.hasSlot_wrap _ _)
  have hhandler : e.irqTaken.handler = some .onUsbDataReceived := by
    subst he
    exact hs.handler Config.epBulkOut hc
  have hframe := State.uartTransmit_fst s (s.slotBytes (e.slot e.swIdx))
  rw [ht] at hframe
  have htcb : t.usb.inCallback = none := by rw [hframe]; exact hs.callback
  have hsync : ∀ b, (t.ep b).syncPending = false := fun b => by
    rw [show t.ep b = s.ep b by rw [hframe]; exact State.ep_congr rfl rfl b]
    exact (hs.eps b).synced
  generalize hv : (s.setEp Config.epBulkOut e.irqTaken).enterCallback Config.epBulkOut = v
  have hhere : v.ep Config.epBulkOut = e.irqTaken := by rw [← hv]; exact s.ep_setEp_self _ hn
  have hcb : v.usb.inCallback = some Config.epBulkOut := by rw [← hv]; rfl
  have hpma : v.pma = s.pma := by rw [← hv]; exact s.setEp_pma _ _
  have hread : v.epReadPacket Config.epBulkOut Config.mpsBulk =
      .ok (v.setEp Config.epBulkOut e.served, some (s.slotBytes (e.slot e.swIdx))) := by
    rw [State.epReadPacket_eq_ok, hhere]
    refine ⟨rfl, hc, hcb, .inr ⟨hf, hlen, hfit, congrArg _ (Endpoint.afterRead_eq _).symm, ?_⟩⟩
    rw [State.slotBytes, State.slotBytes, hpma]
    rfl
  have hsent : ((v.setEp Config.epBulkOut e.served).uartTransmit (s.slotBytes (e.slot e.swIdx))).1 =
      (t.setEp Config.epBulkOut e.served).enterCallback Config.epBulkOut := by
    rw [← hv, State.setEp_enterCallback, State.setEp_setEp, ← ht, ← State.uartTransmit_setEp, State.uartTransmit_fst,
      State.uartTransmit_fst]
    rfl
  obtain ⟨r, hrun, hr⟩ := State.updatePause_deferred
    (s := (t.setEp Config.epBulkOut e.served).enterCallback Config.epBulkOut) (t.ep_setEp_self _ hn)
    ((e.served_sameLayout).cfg.trans hc) (hinv.served hc hf) rfl
  have hdone : v.onUsbDataReceived =
      .ok (((t.setEp Config.epBulkOut e.served).enterCallback Config.epBulkOut).setEp Config.epBulkOut r) := by
    rw [State.onUsbDataReceived, hread]
    simp only [hsent, hrun]
  rw [State.usbIrq_eq, he, State.dispatchCompletion_eq_ok, hv, s.ep_setEp_self _ hn, hhandler]
  refine ⟨_, hdone, ?_⟩
  rw [State.syncAllPending_callback hn htcb hsync, hr]
  simp

end
end Sys2Proof.Machine
end

section
/-! PROOF. The TX ring keeps room for every packet that can still reach it (O43). -/

namespace Sys2Proof.Machine

/-! ## Room for one endpoint's packets (44_cdc_bridge.md R298) -/

/-- Room for `n` bytes takes every packet that can still come from `e`: two while it is not paused, the landed ones while it
is. -/
def Endpoint.HasRoom (e : Endpoint) (n : Nat) : Prop :=
  e.cfg = true → if e.paused = true then e.landed * e.mps ≤ n else 2 * e.mps ≤ n

theorem State.flowRoom_iff {s : State} : s.FlowRoom ↔ (s.ep Config.epBulkOut).HasRoom s.txrb.space := Iff.rfl

section
variable {e : Endpoint} {m n : Nat}

theorem Endpoint.landed_mul_le (e : Endpoint) (h : 2 * e.mps ≤ n) : e.landed * e.mps ≤ n :=
  (Nat.mul_le_mul_right _ e.landed_le).trans h

theorem Endpoint.HasRoom.of_two (h : 2 * e.mps ≤ n) : e.HasRoom n := by
  intro _
  split
  · exact e.landed_mul_le h
  · exact h

theorem Endpoint.HasRoom.mono (h : e.HasRoom m) (hmn : m ≤ n) : e.HasRoom n := by
  intro hc
  have hm := h hc
  split_ifs at hm ⊢ <;> exact hm.trans hmn

/-- In either case the landed packets fit. -/
theorem Endpoint.HasRoom.landed_fit (h : e.HasRoom n) (hc : e.cfg = true) : e.landed * e.mps ≤ n := by
  have hn := h hc
  split at hn
  · exact hn
  · exact e.landed_mul_le hn

theorem Endpoint.HasRoom.unpaused_fit (h : e.HasRoom n) (hc : e.cfg = true) (hp : e.paused = false) : 2 * e.mps ≤ n := by
  simpa [hp] using h hc

theorem Endpoint.sync_paused (e : Endpoint) : e.sync.paused = e.paused := by
  unfold Endpoint.sync
  split <;> rfl

/-- A synchronisation frees no packet that has landed. -/
theorem Endpoint.hasRoom_sync : e.sync.HasRoom n ↔ e.HasRoom n := by
  have hl := e.sameLayout_sync
  rw [Endpoint.HasRoom, Endpoint.HasRoom, hl.cfg, hl.mps, e.sync_paused, e.landed_sync]

/-- A pause needs no more room: at most two packets have landed. -/
theorem Endpoint.HasRoom.pause (h : e.HasRoom n) : ({ e with paused := true } : Endpoint).HasRoom n := h.landed_fit

/-- A packet lands only while the endpoint is not paused, when there is room for two. -/
theorem Endpoint.HasRoom.landing (h : e.HasRoom n) (he : (e.outEnabled m) = true) (hs : e.hwstat = e.wantStat) :
    (e.afterLanding m).HasRoom n := by
  obtain ⟨hc, hv, -, -⟩ := Endpoint.outEnabled_iff.1 he
  have hp : e.paused = false := by
    by_contra hp
    rw [hs, Endpoint.wantStat] at hv
    simp only [hc, Bool.eq_true_of_not_eq_false hp] at hv
    split_ifs at hv
  have hl : e.SameLayout (e.afterLanding m) := Endpoint.sameLayout_advance rfl
  exact .of_two (hl.mps ▸ h.unpaused_fit hc hp)

/-- Coupling leaves room when the landed packets fit: below room for two packets it pauses. -/
theorem Endpoint.HasRoom.coupled (h : e.landed * e.mps ≤ n) : (e.coupled n).HasRoom n := by
  refine Endpoint.hasRoom_sync.2 fun _ => ?_
  by_cases hroom : n < 2 * e.mps
  · rw [if_pos (decide_eq_true hroom)]
    exact h
  · rw [if_neg (by simpa using hroom)]
    exact Nat.le_of_not_lt hroom

theorem Endpoint.landed_pos {i : Fin 2} (hi : e.hasSlot i) (hf : (e.slot i).state = .FULL) : 1 ≤ e.landed := by
  unfold Endpoint.slot at hf
  unfold Endpoint.landed Endpoint.count
  split at hf
  · simp [hf]
  · rename_i h0
    simp [hf, hi.resolve_left h0]

/-- A packet that has landed fits. -/
theorem Endpoint.HasRoom.packet_fits (h : e.HasRoom n) (hi : e.Inv .OUT) (hc : e.cfg = true)
    (hf : (e.slot e.swIdx).state = .FULL) : (e.slot e.swIdx).len ≤ n := by
  have hpos := Endpoint.landed_pos (e.hasSlot_wrap e.swNext) hf
  calc (e.slot e.swIdx).len ≤ 1 * e.mps := by rw [one_mul]; exact (hi.slotOk _).len
    _ ≤ e.landed * e.mps := Nat.mul_le_mul_right _ hpos
    _ ≤ n := h.landed_fit hc

/-- What the packet read took of the room is no more than its own share. -/
theorem Endpoint.HasRoom.served (h : e.HasRoom n) (hi : e.Inv .OUT) (hc : e.cfg = true)
    (hf : (e.slot e.swIdx).state = .FULL) (hm : n ≤ m + (e.slot e.swIdx).len) :
    (e.served.coupled m).HasRoom m := by
  have hl : e.served.landed + 1 = e.landed := Endpoint.landed_afterRead (e := e.irqTaken) hf
  have hlen := (hi.slotOk e.swIdx).len
  have hfit := h.landed_fit hc
  rw [← hl, Nat.add_mul, one_mul] at hfit
  refine .coupled ?_
  rw [e.served_sameLayout.mps]
  omega

end

/-! ## The state -/

section
variable {i : Instr} {s t : State} {a : EpAddr}

/-- The room is the OUT endpoints' and the TX ring's. -/
theorem State.FlowRoom.of_kept (hs : s.FlowRoom) (ho : t.epOut = s.epOut := by rfl) (hr : t.txrb = s.txrb := by rfl) :
    t.FlowRoom := by
  have hep : t.ep Config.epBulkOut = s.ep Config.epBulkOut := by
    simp only [State.ep, State.bank, Config.epBulkOut, ho]
  rwa [State.flowRoom_iff, hep, hr]

theorem State.FlowRoom.ignoresMarks : IgnoresMarks State.FlowRoom := fun _ _ _ _ h => h.of_kept

/-- Storing an endpoint other than bulk OUT takes no room. -/
theorem State.FlowRoom.setEp {r : Endpoint} (hs : s.FlowRoom) (h : a = Config.epBulkOut → r.HasRoom s.txrb.space) :
    (s.setEp a r).FlowRoom := by
  rw [State.flowRoom_iff, State.setEp_txrb]
  by_cases ha : Config.epBulkOut = a
  · subst ha
    rw [State.ep_setEp_self _ _ (by decide)]
    exact h rfl
  · rw [State.ep_setEp_other _ _ ha]
    exact hs

/-- An unconfigured bulk OUT endpoint needs no room. -/
theorem State.flowRoom_of_unconfigured (h : (s.ep Config.epBulkOut).cfg = false) : s.FlowRoom :=
  fun hc => nomatch h.symm.trans hc

/-- A TX ring that was just cleared has room for any two packets. -/
theorem State.flowRoom_of_cleared {r : Ring} (hi : s.EndpointInv) (hser : s.SerialInv) (h : s.txrb = r.clear) :
    s.FlowRoom := by
  have hocc : s.txrb.occ = 0 := (Ring.occ_eq_zero_iff hser.txrb).2 (by rw [h]; rfl)
  have hspace := Ring.space_add_occ hser.txrb.cap_pos
  have hcap := hser.txrb_cap
  have hmps : (s.ep Config.epBulkOut).mps ≤ 64 :=
    (hi.eps Config.epBulkOut).mps_le.trans (by cases (s.ep Config.epBulkOut).type <;> decide)
  refine Endpoint.HasRoom.of_two ?_
  unfold Config.rbCapTx at hcap
  omega

theorem Changes.keeps_serial (h : Changes i s t) (hs : s.SerialInv) : t.SerialInv := h.keeps Change.keeps_serial hs

theorem State.uartEnable_flowRoom (hi : s.EndpointInv) (hser : s.SerialInv) (h : s.uartEnable = .ok t) : t.FlowRoom := by
  have hc : Changes .uartEnable s t := State.uartEnable_changes h
  obtain ⟨u, -, ht⟩ := except_map_eq_ok.1 h
  exact State.flowRoom_of_cleared (r := u.txrb) (hc.keeps_endpoints hi) (hc.keeps_serial hser) (by rw [← ht]; rfl)

/-! ## The endpoint engine's operations -/

theorem State.FlowRoom.epTransmit {d : List Byte} {c : ResultCode} (hs : s.FlowRoom)
    (h : s.epTransmit a d = .ok (t, c)) : t.FlowRoom := by
  obtain ⟨hd, -, -, ⟨-, rfl, -⟩ | ⟨-, -, rfl, -⟩⟩ := State.epTransmit_eq_ok.1 h
  · exact hs
  · rw [State.setEp_frame_in _ _ hd]
    exact hs.of_kept

/-- A pause or a halt command's synchronisation, at once or deferred. -/
theorem State.FlowRoom.syncOrDefer {e : Endpoint} (hs : s.FlowRoom) (h : a = Config.epBulkOut → e.HasRoom s.txrb.space) :
    (s.syncOrDefer a e).FlowRoom := by
  rw [State.syncOrDefer_eq]
  refine hs.setEp fun ha => ?_
  split
  · exact h ha
  · exact Endpoint.hasRoom_sync.2 (h ha)

theorem State.FlowRoom.halt (hs : s.FlowRoom) (b : Bool) : (s.syncOrDefer a { s.ep a with halt := b }).FlowRoom :=
  hs.syncOrDefer fun ha => by subst ha; exact hs

theorem State.FlowRoom.pause (hs : s.FlowRoom) : (s.syncOrDefer a { s.ep a with paused := true }).FlowRoom :=
  hs.syncOrDefer fun ha => by subst ha; exact Endpoint.HasRoom.pause hs

theorem State.FlowRoom.epInDone (hs : s.FlowRoom) (hi : s.EndpointInv) (he : (s.ep a).inDoneEnabled = true)
    (h : s.epInDone a = .ok t) : t.FlowRoom := by
  have hd := (hi.eps a).dir_of_loaded (Endpoint.inDoneEnabled_iff.1 he).2.2
  obtain ⟨-, rfl⟩ := State.epInDone_eq_ok.1 h
  rw [State.setEp_frame_in _ _ hd]
  exact hs.of_kept

theorem State.FlowRoom.epOutPacket {d : List Byte} (hs : s.FlowRoom) (hi : s.EndpointInv)
    (he : (s.ep a).outEnabled d.length = true) (h : s.epOutPacket a d = .ok t) : t.FlowRoom := by
  obtain ⟨-, rfl⟩ := State.epOutPacket_eq_ok.1 h
  rw [Endpoint.afterLanding_eq]
  have hw : ({ s with pma := s.pma.writeBytes ((s.ep a).slot (s.ep a).hwIdx).pma d } : State).FlowRoom := hs.of_kept
  refine hw.setEp fun ha => ?_
  subst ha
  exact Endpoint.HasRoom.landing hs he (hi.eps _).stat

theorem State.FlowRoom.epSetup {n : Nat} {ty : EpType} (hs : s.FlowRoom) (ha : a ≠ Config.epBulkOut)
    (h : s.epSetup a n ty = .ok t) : t.FlowRoom := by
  obtain ⟨-, -, -, rfl⟩ := State.epSetup_eq_ok.1 h
  have hw : ({ s with usb := { s.usb with pmaNext := setupFinal s.usb.pmaNext n ty } } : State).FlowRoom := hs.of_kept
  exact hw.setEp fun hb => absurd hb ha

/-- A completion callback: the packet it puts into the ring has left its slot, or it changes no packet. -/
theorem State.FlowRoom.usbIrq (hs : s.FlowRoom) (hi : s.EndpointInv) (hser : s.SerialInv) (hc : (s.ep a).cfg = true)
    (h : s.usbIrq a = .ok t) : t.FlowRoom := by
  by_cases hp : a = Config.epBulkOut ∧ ((s.ep a).slot (s.ep a).swIdx).state = .FULL
  · obtain ⟨rfl, hf⟩ := hp
    rw [hi.usbIrq_bulkOut rfl hc hf rfl, State.uartTransmit_fst] at h
    generalize hb : maskFor s.uart.coding _ = b at h
    cases h
    have hlen : b.length = ((s.ep Config.epBulkOut).slot (s.ep Config.epBulkOut).swIdx).len := by
      simp [← hb, State.slotBytes]
    have hput := Ring.put_occ hser.txrb b
    have hbefore := Ring.space_add_occ hser.txrb.cap_pos
    have hafter := Ring.space_add_occ (Ring.put_inRange hser.txrb b).cap_pos
    rw [Ring.put_cap] at hafter
    rw [State.flowRoom_iff, State.setEp_txrb, State.ep_setEp_self _ _ (by decide)]
    exact Endpoint.HasRoom.served hs (hi.eps Config.epBulkOut) hc hf (by simp only; omega)
  · rw [hi.usbIrq_idle hc (not_and_or.1 hp)] at h
    cases h
    exact hs.setEp fun ha => by subst ha; exact hs

/-! ## The bridge and control requests -/

theorem State.FlowRoom.updatePause (hs : s.FlowRoom) (hi : s.EndpointInv) (h : s.updatePause = .ok t) :
    t.FlowRoom := by
  rw [hi.updatePause] at h
  cases h
  split
  case isTrue hc => exact hs.setEp fun _ => .coupled (Endpoint.HasRoom.landed_fit hs hc)
  case isFalse => exact hs

theorem State.FlowRoom.notify (hs : s.FlowRoom) (h : s.notify = .ok t) : t.FlowRoom := by
  rcases State.notify_eq_ok h with rfl | ⟨-, u, hu, rfl⟩
  · exact hs
  · exact (hs.epTransmit hu).of_kept

theorem State.FlowRoom.rxToUsb {now : Word} (hs : s.FlowRoom) (h : s.rxToUsb now = .ok t) : t.FlowRoom := by
  rcases State.rxToUsb_cases h with rfl | ⟨u, c, hu, rfl⟩ | ⟨mps, n, left, u, k, hu, rfl⟩
  · exact hs
  · exact (hs.epTransmit hu).of_kept
  · rw [State.sendPackets_rest mps n hu]
    exact hs.of_kept

/-- UART_POLL writes the UART, the RX window and the pins only. -/
theorem State.uartPoll_rest (s : State) :
    s.uartPoll = { s with uart := s.uartPoll.uart, rx := s.uartPoll.rx, pin := s.uartPoll.pin } := by
  unfold State.uartPoll
  simp only [State.pollRx_eq, State.txStart_eq]

theorem State.FlowRoom.bridgePoll {now : Word} (hs : s.FlowRoom) (hi : s.EndpointInv) (h : s.bridgePoll now = .ok t) :
    t.FlowRoom := by
  have hc : Changes (.bridgePoll now) s s.uartPoll.gatherFlags := s.uartPoll_changes.trans (State.gatherFlags_changes _)
  have h1 : s.uartPoll.gatherFlags.FlowRoom := by
    rw [s.uartPoll_rest]
    exact hs.of_kept
  rcases State.bridgePoll_eq_ok.1 h with ⟨-, rfl⟩ | ⟨-, u, v, hu, hv, ht⟩
  · exact h1
  · exact ((h1.updatePause (hc.keeps_endpoints hi) hu).notify hv).rxToUsb ht

/-- SET_CONFIGURATION clears the ring after it has configured the endpoint. -/
theorem State.setConfiguration_flowRoom {req : Request} {r : HandlerResult} (hs : s.FlowRoom) (hi : s.EndpointInv)
    (hser : s.SerialInv) (h : s.setConfiguration req = .ok (t, r)) : t.FlowRoom := by
  have hc : Changes (.evSetup []) s t := State.setConfiguration_changes h
  rcases State.setConfiguration_eq_ok h with ⟨-, -, rfl, -⟩ | ⟨-, -, rfl⟩ | ⟨-, -, hset⟩
  · exact hs
  · exact State.flowRoom_of_unconfigured (by rfl)
  · obtain ⟨-, -, s3, s4, -, -, -, h4, rfl⟩ := State.setConfig_eq_ok.1 hset
    obtain ⟨u, -, rfl⟩ := except_map_eq_ok.1 h4
    exact State.flowRoom_of_cleared (r := u.txrb) (hc.keeps_endpoints hi) (hc.keeps_serial hser) rfl

theorem State.FlowRoom.serveRequest {data : List Byte} (hs : s.FlowRoom) (hi : s.EndpointInv) (hser : s.SerialInv)
    (h : s.serveRequest data = .ok t) : t.FlowRoom := by
  obtain ⟨⟨u, r⟩, hu, rfl⟩ := except_map_eq_ok.1 h
  have hserved : u.FlowRoom := by
    rw [State.dispatchRequest_eq] at hu
    split at hu
    · have hcdc : (s.cdc s.request data).1 = u := by rw [Except.ok.inj hu]
      rw [← hcdc]
      rcases s.cdc_cases s.request data with h | h | h | h | ⟨c, -, -, -, h⟩ <;> rw [h] <;> exact hs.of_kept
    · rcases State.standard_eq_ok hu with rfl | ⟨-, set, hf⟩ | ⟨-, -, -, -, -, rfl⟩ | ⟨-, -, hset⟩
      · exact hs
      · rcases State.epFeature_eq_ok hf with ⟨rfl, -⟩ | ⟨-, a, -, -, rfl⟩
        · exact hs
        · exact hs.halt set
      · exact hs.of_kept
      · exact State.setConfiguration_flowRoom hs hi hser hset
  rw [State.completeRequest_rest]
  exact hserved.of_kept

theorem State.FlowRoom.setupPacket {p : List Byte} (hs : s.FlowRoom) (hi : s.EndpointInv) (hser : s.SerialInv)
    (h : s.setupPacket p = .ok t) : t.FlowRoom := by
  have hb : (s.begun p).FlowRoom := hs.of_kept
  rcases State.setupPacket_eq_ok h with ⟨-, -, rfl⟩ | ⟨-, -, -, rfl⟩ | ⟨-, hserve⟩
  · exact hs.of_kept
  · exact hs.of_kept
  · exact hb.serveRequest (hi.congr (fun _ => rfl) rfl rfl) { hser with } hserve

theorem State.FlowRoom.ctrlOutData {d : List Byte} (hs : s.FlowRoom) (hi : s.EndpointInv) (hser : s.SerialInv)
    (h : s.ctrlOutData d = .ok t) : t.FlowRoom := by
  have hb : (s.stored d).FlowRoom := hs.of_kept
  rcases State.ctrlOutData_eq_ok h with ⟨-, rfl⟩ | ⟨-, -, ⟨-, hserve⟩ | ⟨-, -, rfl⟩ | ⟨-, -, rfl⟩⟩
  · exact hs.of_kept
  · exact hb.serveRequest (hi.congr (fun _ => rfl) rfl rfl) { hser with } hserve
  · exact hs.of_kept
  · exact hs.of_kept

theorem State.FlowRoom.ctrlOut {d : List Byte} (hs : s.FlowRoom) (hi : s.EndpointInv) (hser : s.SerialInv)
    (h : s.ctrlOut d = .ok t) : t.FlowRoom := by
  unfold State.ctrlOut at h
  split at h
  case h_1 => exact hs.ctrlOutData hi hser h
  case h_2 => exact hs.ctrlOutData hi hser h
  all_goals cases h; exact hs.of_kept

/-- EV_UART_TX_DMA_DONE only makes room. -/
theorem State.FlowRoom.txDmaDone (hs : s.FlowRoom) (hser : s.SerialInv) (h : s.txDmaDone = .ok t) : t.FlowRoom := by
  obtain ⟨-, rfl⟩ := State.txDmaDone_eq_ok.1 h
  have hocc : s.uart.txChunk ≤ s.txrb.occ := hser.chunk.trans (Ring.contig_le_occ hser.txrb)
  have hring : (s.txrb.take s.uart.txChunk).1 = { s.txrb with tail := (s.txrb.tail + s.uart.txChunk) % s.txrb.cap } := by
    rw [Ring.take_fst, Nat.min_eq_left hocc]
  have hroom : s.txrb.space ≤ (s.txrb.take s.uart.txChunk).1.space := by
    rw [Ring.space, Ring.space, Ring.take_occ hser.txrb]
    exact Nat.sub_le_sub_left (Nat.sub_le _ _) _
  rw [State.txStart_eq, ← hring]
  exact Endpoint.HasRoom.mono hs hroom

/-! ## Every operation -/

/-- The byte 0x01 alone addresses bulk OUT. -/
theorem ne_bulkOut_of_byte {b : Byte} (h : epAddrOfByte b = some a) (hb : b ≠ 0x01) : a ≠ Config.epBulkOut := by
  rintro rfl
  exact hb (epAddrToByte_ofByte h)

/-- An endpoint command acts on the endpoint its byte addresses, or is refused. -/
theorem State.withEp_eq_next {op addr : Byte} {f : EpAddr → Host.Outcome State Fault Refusal}
    (h : s.withEp op addr f = .next t) : (∃ a, epAddrOfByte addr = some a ∧ f a = .next t) ∨ t = s.refuse op := by
  unfold State.withEp at h
  split at h
  · exact .inl ⟨_, ‹_›, h⟩
  · cases h; exact .inr rfl

theorem exec_flowRoom (hinv : s.Inv) (hs : s.FlowRoom) (h : exec i s = .next t) (hsend : ∀ d, i ≠ .uartTransmit d)
    (hun : i ≠ .epUnpause 0x01) (hset : ∀ n ty, i ≠ .epSetup 0x01 n ty) : t.FlowRoom := by
  have hi := hinv.endpoints
  have hser := hinv.serial
  have hP := State.FlowRoom.ignoresMarks
  cases i with
  | uartTransmit data => exact absurd rfl (hsend data)
  | uartEnable =>
    exact hP.conclude hs h fun v hv => (State.uartEnable_flowRoom hi hser hv).of_kept
  | evUartTxDmaDone => exact hP.event hs h fun _ h => hP.conclude hs h fun v hv => (hs.txDmaDone hser hv).of_kept
  | epSetup addr size type =>
    rcases State.withEp_eq_next h with ⟨a, hbyte, ha⟩ | rfl
    · split at ha
      · have hne := ne_bulkOut_of_byte hbyte fun hb => hset size type (by rw [hb])
        exact hP.conclude hs ha fun v hv => (hs.epSetup hne hv).of_kept
      · cases ha; exact hs.of_kept
    · exact hs.of_kept
  | epUnpause addr =>
    rcases State.withEp_eq_next h with ⟨a, hbyte, ha⟩ | rfl
    · have hne := ne_bulkOut_of_byte hbyte fun hb => hun (by rw [hb])
      refine hP.conclude hs ha fun v hv => ?_
      obtain ⟨e, -, rfl⟩ := except_map_eq_ok.1 hv
      exact (State.FlowRoom.syncOrDefer hs fun hb => absurd hb hne).of_kept
    · exact hs.of_kept
  | epPause addr =>
    refine hP.epCommand hs h fun a v hv => ?_
    obtain ⟨e, he, rfl⟩ := except_map_eq_ok.1 hv
    obtain ⟨-, -, rfl⟩ := State.epFor_eq_ok.1 he
    exact hs.pause.of_kept
  | epSetHalt addr | epClearHalt addr =>
    refine hP.epCommand hs h fun a v hv => ?_
    obtain ⟨e, he, rfl⟩ := except_map_eq_ok.1 hv
    obtain ⟨-, rfl⟩ := State.epAny_eq_ok.1 he
    exact (hs.halt _).of_kept
  | epTransmitPacket addr data => exact hP.epCommand hs h fun a v hv => (hs.epTransmit hv).of_kept
  | epReadPacket addr limit =>
    refine hP.epCommand hs h fun a v hv => ?_
    obtain ⟨-, -, hin, -⟩ := State.epReadPacket_eq_ok.1 hv
    exact nomatch hi.callback.symm.trans hin
  | evEpInDone addr =>
    exact hP.withEp hs h fun a ha => hP.event hs ha fun he ha =>
      hP.conclude hs ha fun v hv => (hs.epInDone hi he hv).of_kept
  | evEpOut addr data =>
    exact hP.withEp hs h fun a ha => hP.event hs ha fun he ha =>
      hP.conclude hs ha fun v hv => (hs.epOutPacket hi he hv).of_kept
  | evUsbIrq addr =>
    exact hP.withEp hs h fun a ha => hP.event hs ha fun he ha =>
      hP.conclude hs ha fun v hv => (hs.usbIrq hi hser (Endpoint.irqEnabled_iff.1 he).1 hv).of_kept
  | epDeconfigureAll => cases h; exact State.flowRoom_of_unconfigured rfl
  | evBusReset =>
    refine hP.conclude hs h fun v hv => ?_
    obtain ⟨u, -, rfl⟩ := State.busReset_eq_ok.1 hv
    exact State.flowRoom_of_unconfigured rfl
  | evSetup packet => exact hP.conclude hs h fun v hv => (hs.setupPacket hi hser hv).of_kept
  | evCtrlOut data => exact hP.event hs h fun _ h => hP.conclude hs h fun v hv => (hs.ctrlOut hi hser hv).of_kept
  | bridgePoll now => exact hP.conclude hs h fun v hv => (hs.bridgePoll hi hv).of_kept
  | rbClear _ | rbEnqueue _ _ | rbDequeue _ _ | rbAvailableSpace _ | rbOccupiedLen _ | rbContigLen _ | uartSetDtr _
  | evPinLevels _ =>
    exact hP.refusedUnless hs h hs.of_kept
  | uartHasOverrun | uartGetDsr | uartGetDcd | uartTxSpace | uartRxLen | uartGetCoding | evUartParityError
  | ctrlReadState =>
    cases h
    exact hs.of_kept
  | uartConfigure coding =>
    cases h
    rcases s.uartConfigure_cases coding with ⟨c, -, -, hx⟩ | ⟨-, hx⟩ <;> rw [hx] <;> exact hs.of_kept
  | uartPoll =>
    cases h
    rw [s.uartPoll_rest]
    exact hs.of_kept
  | uartCopyRx limit =>
    cases h
    rw [State.uartCopyRx_fst]
    exact hs.of_kept
  | evUartRxByte arg =>
    refine hP.refusedUnless hs h ?_
    unfold State.rxByte
    split <;> exact hs.of_kept
  | epWriteAvail addr => exact hP.epCommand hs h fun a v hv => hs.of_kept
  | epReadStatus sel =>
    simp only [exec, execEpReadStatus] at h
    split at h <;> cases h <;> exact hs.of_kept
  | evCtrlInDone =>
    rcases evCtrlInDone_cases h with ⟨-, rfl⟩ | ⟨-, rfl⟩
    · rw [s.ctrlInDone_frame]
      exact hs.of_kept
    · exact hs.of_kept
  | ctrlRegisterFilter handler value mask =>
    simp only [exec, execCtrlRegisterFilter] at h
    split at h
    · refine hP.conclude hs h fun v hv => ?_
      obtain ⟨-, rfl⟩ := State.registerFilter_eq_ok.1 hv
      exact hs.of_kept
    · cases h; exact hs.of_kept
  | bridgeInit =>
    refine hP.conclude hs h fun v hv => ?_
    obtain ⟨u, hu, rfl⟩ := except_map_eq_ok.1 hv
    obtain ⟨-, rfl⟩ := State.registerFilter_eq_ok.1 hu
    exact hs.of_kept

end

/-- Settles O43: a packet read takes its own share of the room, and below room for two packets the endpoint is paused, so
that no other can land; UART_ENABLE clears the ring, and the chunk that has been sent makes room. -/
theorem flowRoomKept : Obligations.FlowRoomKept := by
  unfold Obligations.FlowRoomKept
  exact ⟨fun i s t => exec_flowRoom, fun s hinv hs hc hf =>
    Endpoint.HasRoom.packet_fits hs (hinv.endpoints.eps Config.epBulkOut) hc hf⟩

end Sys2Proof.Machine
end

section
/-! PROOF. The bulk OUT callback on a packet (O42). -/

namespace Sys2Proof.Machine

section
variable {e : Endpoint} {space : Nat} {i : Fin 2}

/-- A HELD slot is one of the `K` slots. -/
theorem Endpoint.Inv.hasSlot_of_held {d : Dir} (h : e.Inv d) (hh : (e.slot i).state = .HELD) : e.hasSlot i := by
  by_contra hi
  obtain ⟨h0, hd⟩ := not_or.1 hi
  have hs := (h.isSingle (by simpa using hd)).state
  rw [Endpoint.slot, if_neg h0] at hh
  rw [hh] at hs
  cases d <;> cases hs

/-- Coupling frees the HELD slots when there is room for two packets (R184, R288). -/
theorem Endpoint.Inv.slot_coupled {d : Dir} (h : e.Inv d) (i : Fin 2) : (e.coupled space).slot i =
    if (e.slot i).state = .HELD ∧ 2 * e.mps ≤ space then { e.slot i with state := .FREE } else e.slot i := by
  have hs := e.coupled_synced space
  by_cases hroom : 2 * e.mps ≤ space
  · have hp : decide (space < 2 * e.mps) = false := decide_eq_false (Nat.not_lt.2 hroom)
    by_cases hh : (e.slot i).state = .HELD
    · rw [if_pos ⟨hh, hroom⟩]
      exact hs.held hp i (h.hasSlot_of_held hh) hh
    · rw [if_neg fun hc => hh hc.1]
      exact hs.other i hh
  · have hp : decide (space < 2 * e.mps) = true := decide_eq_true (Nat.lt_of_not_le hroom)
    obtain ⟨h0, h1⟩ := hs.paused hp
    rw [if_neg fun hc => hroom hc.2, Endpoint.slot, h0, h1]
    rfl

/-- The registers of an endpoint whose callback has read a packet and brought the pause up to date. -/
theorem Endpoint.served_coupled (e : Endpoint) (space : Nat) : e.served.coupled space = { e with
    irq := e.irq - 1, swNext := e.succ e.swIdx, paused := decide (space < 2 * e.mps), syncPending := false
    hwstat := ({ e with paused := decide (space < 2 * e.mps) } : Endpoint).wantStat
    slot0 := (e.served.coupled space).slot0, slot1 := (e.served.coupled space).slot1 } := by
  have hadv : e.served = { e with
      slot0 := e.served.slot0, slot1 := e.served.slot1, irq := e.irq - 1, swNext := e.succ e.swIdx } :=
    (Endpoint.advance_rest _ _ _ _ _ _).trans (by rw [Endpoint.served, Endpoint.afterRead, Endpoint.advance_rest]; rfl)
  have hrest := (e.served.coupled_synced space).rest
  generalize e.served.coupled space = r at hrest ⊢
  rw [hadv] at hrest
  exact hrest

theorem Endpoint.slot_served_self (e : Endpoint) : e.served.slot e.swIdx =
    { e.slot e.swIdx with state := if e.paused then .HELD else .FREE } := e.irqTaken.slot_setSlot_self _ _

theorem Endpoint.slot_served_other (h : i ≠ e.swIdx) : e.served.slot i = e.slot i :=
  e.irqTaken.slot_setSlot_other _ h

/-- The slot just read is kept for the host only while the endpoint was and stays paused (R180, R184). -/
theorem Endpoint.Inv.slot_served_coupled (h : e.Inv .OUT) (hc : e.cfg = true) (hf : (e.slot e.swIdx).state = .FULL) :
    (e.served.coupled space).slot e.swIdx =
      { e.slot e.swIdx with state := if e.paused = true ∧ space < 2 * e.mps then .HELD else .FREE } := by
  rw [(h.served hc hf).slot_coupled, e.slot_served_self, e.served_sameLayout.mps]
  by_cases hroom : space < 2 * e.mps <;> cases e.paused <;> simp [hroom, ← Nat.not_lt]

/-- EV_USB_IRQ of bulk OUT with a packet waiting (R198, R287). -/
theorem exec_evUsbIrq_bulkOut {s t : State} (hs : s.EndpointInv) (he : s.ep Config.epBulkOut = e) (hc : e.cfg = true)
    (hq : 0 < e.irq) (hf : (e.slot e.swIdx).state = .FULL) (ht : (s.uartTransmit (s.slotBytes (e.slot e.swIdx))).1 = t) :
    exec (.evUsbIrq 0x01) s =
      .next (t.setEp Config.epBulkOut (e.served.coupled t.txrb.space)).taken := by
  have hx : exec (.evUsbIrq 0x01) s = s.conclude ((s.usbIrq Config.epBulkOut).map State.taken) :=
    exec_evUsbIrq (a := Config.epBulkOut) (Endpoint.irqEnabled_iff.2 (he ▸ ⟨hc, hq⟩))
  rw [hx, hs.usbIrq_bulkOut he hc hf ht]
  rfl

end

/-- Settles O42: the packet read is what UART_TRANSMIT appends, and the endpoint follows the room that is left. -/
theorem bulkOutCallback : Obligations.BulkOutCallback := by
  unfold Obligations.BulkOutCallback
  intro s hs a e sl b hc hq hf
  have he : s.ep Config.epBulkOut = e := rfl
  have hi : e.Inv .OUT := hs.endpoints.eps Config.epBulkOut
  have hb : s.slotBytes sl = b := Memory.readBytes_eq_map _ _ _
  have hlen : (maskFor s.uart.coding b).length = sl.len := by simp [b]
  clear_value e
  have happ := Ring.put_appended hs.serial.txrb (maskFor s.uart.coding b)
  rw [hlen] at happ
  have hsend := s.uartTransmit_fst b
  generalize hu : (s.uartTransmit b).1 = u at hsend
  have hx := exec_evUsbIrq_bulkOut hs.endpoints he hc hq hf (hb ▸ hu)
  have hslot := hi.slot_served_coupled (space := u.txrb.space) hc hf
  have hrest := e.served_coupled u.txrb.space
  have hothers : ∀ j, j ≠ e.swIdx → (e.served.coupled u.txrb.space).slot j =
      if (e.slot j).state = .HELD ∧ 2 * e.mps ≤ u.txrb.space then { e.slot j with state := .FREE } else e.slot j := by
    intro j hj
    rw [(hi.served hc hf).slot_coupled, Endpoint.slot_served_other hj, e.served_sameLayout.mps]
  generalize e.served.coupled u.txrb.space = r at *
  have hn : Config.epBulkOut.num.val ≠ 0 := by decide
  have hring : (u.setEp Config.epBulkOut r).taken.txrb = u.txrb := u.setEp_txrb _ _
  have hhere : (u.setEp Config.epBulkOut r).taken.ep a = r := u.ep_setEp_self _ hn
  refine ⟨_, hx, ?_⟩
  rw [hring, hhere]
  refine ⟨?_, ?_, ?_, fun c hca => ?_, ?_⟩
  · rw [State.setEp_frame_out _ _ rfl, hsend]
    rfl
  · refine (u.setEp_uart _ _).trans ?_
    rw [hsend]
    rfl
  · rw [hsend]
    exact happ
  · exact (u.ep_setEp_other _ hca).trans (by rw [hsend]; exact State.ep_congr rfl rfl c)
  · refine ⟨?_, ?_, ?_, ?_, ?_, ?_, ?_, by rw [hslot], hothers, by rw [hi.synced, hrest], by rw [hslot]⟩
    all_goals rw [hrest]
    simp [Endpoint.wantStat, hc]

end Sys2Proof.Machine
end

section
/-! PROOF. The CDC class requests, and SET_LINE_CODING as a transfer (O53, O54). -/

namespace Sys2Proof.Machine

section
variable {s t : State} {req : Request} {data : List Byte} {r : HandlerResult} {c : LineCoding}

/-! ## The CDC handler (44_cdc_bridge.md R281-R284) -/

theorem State.cdc_getLineCoding (s : State) (data : List Byte) (hx : req.wIndex = Config.commIf)
    (hty : req.bmRequestType = 0xA1) (hrq : req.bRequest = 0x21) :
    s.cdc req data = (s, .handled (encodeCoding s.uart.coding)) := by
  simp [State.cdc, hx, hty, hrq]

theorem State.cdc_setControlLineState (s : State) (data : List Byte) (hx : req.wIndex = Config.commIf)
    (hty : req.bmRequestType = 0x21) (hrq : req.bRequest = 0x22) : s.cdc req data = s.setControlLineState req := by
  simp [State.cdc, hx, hty, hrq]

theorem State.cdc_setLineCoding (s : State) (data : List Byte) (hx : req.wIndex = Config.commIf)
    (hty : req.bmRequestType = 0x21) (hrq : req.bRequest = 0x20) : s.cdc req data = s.setLineCoding req data := by
  simp [State.cdc, hx, hty, hrq]

/-- What is for another interface, or is no request of the handler, is passed on (R281). -/
theorem State.cdc_passes (s : State) (data : List Byte) (h : req.wIndex ≠ Config.commIf ∨
    (req.bmRequestType, req.bRequest) ∉ [(0x21#8, 0x20#8), (0xA1#8, 0x21#8), (0x21#8, 0x22#8)]) :
    s.cdc req data = (s, .pass) := by
  unfold State.cdc
  split
  · rfl
  · rename_i hx
    have hrow := h.resolve_left hx
    simp only [List.mem_cons, Prod.mk.injEq, List.not_mem_nil, or_false, not_or] at hrow
    obtain ⟨hset, hget, hline⟩ := hrow
    exact (if_neg hset).trans ((if_neg hget).trans (if_neg hline))

/-- SET_LINE_CODING is rejected for a wrong length, or a coding that is none or not legal, and changes nothing (R282). -/
theorem State.setLineCoding_rejected (s : State)
    (h : req.wLength ≠ 7 ∨ data.length ≠ 7 ∨ ∀ c, decodeCoding data = some c → legalCoding c = false) :
    s.setLineCoding req data = (s, .notSupported) := by
  unfold State.setLineCoding
  split
  · rfl
  · rename_i hl
    have hbad := (or_assoc.2 h).resolve_left hl
    rcases s.uartConfigure_cases data with ⟨c, hc, hleg, -⟩ | ⟨-, hx⟩
    · exact nomatch (hbad c hc).symm.trans hleg
    · rw [hx]

/-- `s` with the line coding `c` applied (41_uart_engine.md R136). -/
def State.withCoding (s : State) (c : LineCoding) : State := { s with uart := { s.uart with
  coding := c, effBaud := Config.effectiveBaud c.baud, rxHwm := highWaterMark c.baud } }

theorem State.setLineCoding_applied (s : State) (hw : req.wLength = 7) (hl : data.length = 7)
    (hc : decodeCoding data = some c) (hleg : legalCoding c = true) :
    s.setLineCoding req data = (s.withCoding c, .handled []) := by
  rw [State.setLineCoding, if_neg (by simp [hw, hl])]
  simp only [State.uartConfigure, hc, hleg, if_true]
  rfl

/-! ## Dispatch (43_control_transfer.md R223, R225) -/

/-- A filter offers requests of this type to the CDC handler (R224). -/
def State.Filtered (s : State) (ty : Byte) : Prop := ∃ f ∈ s.filters, f.matchesType ty = true

theorem State.Filtered.any {ty : Byte} : s.filters.any (fun f => f.matchesType ty) = true ↔ s.Filtered ty :=
  List.any_eq_true

/-- The handler's definitive answer is dispatch's. -/
theorem State.Filtered.dispatchRequest (h : s.Filtered req.bmRequestType) (hx : s.cdc req data = (t, r))
    (hr : r ≠ .pass) : s.dispatchRequest req data = .ok (t, r) := by
  rw [State.dispatchRequest_eq, hx, if_pos ⟨State.Filtered.any.2 h, hr⟩]

/-- A class or vendor request that no handler serves is rejected. -/
theorem State.dispatchRequest_unserved (hty : req.rtype ≠ 0)
    (h : ¬ s.Filtered req.bmRequestType ∨ s.cdc req data = (s, .pass)) :
    s.dispatchRequest req data = .ok (s, .notSupported) := by
  rw [State.dispatchRequest_eq, if_neg, State.standard, if_pos hty]
  rintro ⟨hf, hp⟩
  rcases h with h | h
  · exact h (State.Filtered.any.1 hf)
  · exact hp (by rw [h])

end

/-- Settles O53: with a matching filter dispatch is the CDC handler, and standard handling rejects what it passes on. -/
theorem cdcRequests : Obligations.CdcRequests := by
  unfold Obligations.CdcRequests
  intro s req data rejected filtered
  refine ⟨fun hf hx => ⟨fun hty hrq => ?_, fun hty hrq hw => ?_, fun hty hrq hw => ?_, fun hty hrq hl => ?_,
    fun hty hrq _ _ hbad => ?_, fun c hty hrq hw hl hc hleg => ?_⟩, fun hty h => ?_⟩
  · exact State.Filtered.dispatchRequest hf (s.cdc_getLineCoding data hx hty hrq) nofun
  · exact State.Filtered.dispatchRequest hf ((s.cdc_setControlLineState data hx hty hrq).trans (if_pos hw)) nofun
  · exact State.Filtered.dispatchRequest hf
      ((s.cdc_setControlLineState data hx hty hrq).trans (if_neg (not_not.2 hw))) nofun
  · exact State.Filtered.dispatchRequest hf
      ((s.cdc_setLineCoding data hx hty hrq).trans (s.setLineCoding_rejected (hl.imp_right .inl))) nofun
  · exact State.Filtered.dispatchRequest hf
      ((s.cdc_setLineCoding data hx hty hrq).trans (s.setLineCoding_rejected (.inr (.inr hbad)))) nofun
  · exact State.Filtered.dispatchRequest hf
      ((s.cdc_setLineCoding data hx hty hrq).trans (s.setLineCoding_applied hw hl hc hleg)) nofun
  · exact State.dispatchRequest_unserved hty (h.imp_right (s.cdc_passes data))

/-! ## SET_LINE_CODING as a transfer (44_cdc_bridge.md R285) -/

/-- Reading back a byte sequence that was written. -/
theorem Memory.readBytes_writeBytes (m : Memory) (a : Nat) (bs : List Byte) :
    (m.writeBytes a bs).readBytes a bs.length = bs := by
  rw [Memory.readBytes_eq_map]
  apply List.ext_getElem
  · simp
  · intro k _ hk
    rw [List.getElem_map, List.getElem_range, Memory.read_writeBytes_at _ _ _ hk, List.getD_eq_getElem _ _ hk]

/-- The SETUP packet of SET_LINE_CODING to the communication interface, which declares `l0` bytes. -/
def setLineCodingSetup (v0 v1 l0 : Byte) : List Byte := [0x21, 0x20, v0, v1, 0x00, 0x00, l0, 0x00]

section
variable {s t : State} {v0 v1 l0 : Byte} {data : List Byte} {c : LineCoding}

theorem setLineCodingSetup_wLength (v0 v1 l0 : Byte) :
    (requestOf (setLineCodingSetup v0 v1 l0)).wLength.toNat = l0.toNat := by
  exact toNat_half l0 0

theorem setLineCodingSetup_dirIn (v0 v1 l0 : Byte) : (requestOf (setLineCodingSetup v0 v1 l0)).dirIn = false :=
  (by decide : (0x21#8).getLsbD 7 = false)

theorem setLineCodingSetup_wIndex (v0 v1 l0 : Byte) :
    (requestOf (setLineCodingSetup v0 v1 l0)).wIndex = Config.commIf := (by decide : (0#8 ++ 0#8 : Half) = 0)

theorem setLineCodingSetup_wLength_eq : (requestOf (setLineCodingSetup v0 v1 l0)).wLength = 7 ↔ l0 = 7 := by
  have h := setLineCodingSetup_wLength v0 v1 l0
  constructor <;> intro h7
  · exact BitVec.eq_of_toNat_eq (by rw [← h, h7]; rfl)
  · exact BitVec.eq_of_toNat_eq (by rw [h, h7]; rfl)

/-- The SETUP of SET_LINE_CODING that declares data: the control machine awaits it. -/
theorem exec_setLineCoding_setup (hpos : l0 ≠ 0) : exec (.evSetup (setLineCodingSetup v0 v1 l0)) s =
    .next (s.awaitsData (setLineCodingSetup v0 v1 l0)).taken := by
  have hl := setLineCodingSetup_wLength v0 v1 l0
  refine exec_evSetup_dataOut (setLineCodingSetup_dirIn _ _ _) ?_ ?_
  · rw [hl]
    exact Nat.pos_of_ne_zero fun h => hpos (BitVec.eq_of_toNat_eq h)
  · have := l0.isLt
    rw [hl, Config.ctrlBufCap]
    omega

/-- Dispatch rejects SET_LINE_CODING for a wrong length, or a coding that is none or not legal. -/
theorem State.Filtered.rejects_setLineCoding (hf : s.Filtered 0x21)
    (hbad : l0 ≠ 7 ∨ data.length ≠ 7 ∨ ∀ c, decodeCoding data = some c → legalCoding c = false) :
    s.dispatchRequest (requestOf (setLineCodingSetup v0 v1 l0)) data = .ok (s, .notSupported) :=
  hf.dispatchRequest ((s.cdc_setLineCoding data (setLineCodingSetup_wIndex _ _ _) rfl rfl).trans
    (s.setLineCoding_rejected (hbad.imp_left (mt setLineCodingSetup_wLength_eq.1)))) nofun

/-- Dispatch applies a legal coding of seven bytes. -/
theorem State.Filtered.applies_setLineCoding (hf : s.Filtered 0x21) (hl : data.length = 7)
    (hc : decodeCoding data = some c) (hleg : legalCoding c = true) :
    s.dispatchRequest (requestOf (setLineCodingSetup v0 v1 7)) data = .ok (s.withCoding c, .handled []) :=
  hf.dispatchRequest ((s.cdc_setLineCoding data (setLineCodingSetup_wIndex _ _ _) rfl rfl).trans
    (s.setLineCoding_applied (setLineCodingSetup_wLength_eq.2 rfl) hl hc hleg)) nofun

/-- The data packet of SET_LINE_CODING is awaited: `s` with the control context after the SETUP. -/
def State.awaitsCoding (s : State) (v0 v1 l0 : Byte) : State := (s.awaitsData (setLineCodingSetup v0 v1 l0)).taken

theorem State.awaitsCoding_inDataOut (s : State) (v0 v1 l0 : Byte) : (s.awaitsCoding v0 v1 l0).InDataOut := by
  change dataOutState _ = _ ∨ dataOutState _ = _
  unfold dataOutState
  split
  · exact .inr rfl
  · exact .inl rfl

theorem State.awaitsCoding_length (s : State) (v0 v1 l0 : Byte) : (s.awaitsCoding v0 v1 l0).ctrl.length = l0.toNat :=
  setLineCodingSetup_wLength v0 v1 l0

/-- A packet that completes the data is dispatched with its own bytes. -/
theorem exec_setLineCoding_served {u : State} {r : HandlerResult} (hd : data.length ≤ Config.mps0)
    (hl : data.length = l0.toNat)
    (h : ((s.awaitsCoding v0 v1 l0).stored data).dispatchRequest (requestOf (setLineCodingSetup v0 v1 l0)) data =
      .ok (u, r)) :
    exec (.evCtrlOut data) (s.awaitsCoding v0 v1 l0) = .next (u.completeRequest r).taken := by
  have hlen := s.awaitsCoding_length v0 v1 l0
  have hcap : l0.toNat ≤ Config.ctrlBufCap := by
    have := l0.isLt
    rw [Config.ctrlBufCap]
    omega
  refine exec_evCtrlOut_served (s.awaitsCoding_inDataOut v0 v1 l0) hd ?_ (hlen.trans_le hcap) ?_
  · rw [hlen, ← hl]
    exact Nat.zero_add _
  · rw [hlen, ← hl]
    exact (congrArg _ (Memory.readBytes_writeBytes _ 0 data)).trans h

/-- A data packet that cannot be applied stalls; it is stored unless it is longer than declared. -/
theorem exec_setLineCoding_rejected (hf : s.Filtered 0x21) (hfit : l0.toNat ≤ Config.mps0)
    (hd : data.length ≤ Config.mps0)
    (hbad : l0 ≠ 7 ∨ data.length ≠ 7 ∨ ∀ c, decodeCoding data = some c → legalCoding c = false) :
    exec (.evCtrlOut data) (s.awaitsCoding v0 v1 l0) = .next
      (if data.length ≤ l0.toNat then (s.awaitsCoding v0 v1 l0).stored data else s.awaitsCoding v0 v1 l0).stall.taken := by
  have hst := s.awaitsCoding_inDataOut v0 v1 l0
  have hlen := s.awaitsCoding_length v0 v1 l0
  have hcur : (s.awaitsCoding v0 v1 l0).ctrl.cursor + data.length = data.length := Nat.zero_add _
  rcases Nat.lt_trichotomy data.length l0.toNat with hlt | heq | hgt
  · rw [if_pos hlt.le]
    refine exec_evCtrlOut_data hst hd ?_
    rw [State.ctrlOutData_stored, hcur, hlen, if_neg hlt.ne, if_pos (hlt.trans_le hfit)]
    · rw [hcur, hlen]
      exact hlt.le
    · rw [hlen]
      exact hfit.trans (by decide)
  · rw [if_pos heq.le]
    exact exec_setLineCoding_served hd heq (State.Filtered.rejects_setLineCoding hf hbad)
  · rw [if_neg (Nat.not_le.2 hgt)]
    exact exec_evCtrlOut_data hst hd (State.ctrlOutData_tooLong (by rw [hcur, hlen]; exact hgt))

/-- The status packet of a transfer that latched no address. -/
theorem exec_statusDone (w : State) (h : w.ctrl.onDone = none) :
    exec .evCtrlInDone (State.taken { w with ctrl := w.ctrl.statusIn }) = .next (State.taken { w with
      ctrl := { w.ctrl with in0 := .EMPTY, in0Len := 0, in0Data := [], state := .IDLE, onDone := none }
      hostIn := w.hostIn ++ [(⟨.IN, 0⟩, [])] }) := by
  refine (exec_evCtrlInDone rfl (State.ctrlInDone_statusIn rfl)).trans ?_
  simp only [Ctrl.statusIn_eq, State.taken_ctrl, h]
  rfl

theorem State.awaitsCoding_rest (s : State) (v0 v1 l0 : Byte) :
    s.awaitsCoding v0 v1 l0 = { s with ctrl := (s.awaitsCoding v0 v1 l0).ctrl, reply := .event } := rfl

theorem State.stored_rest (s : State) (data : List Byte) : s.stored data = { s with ctrl := (s.stored data).ctrl } := rfl

/-- A stall that ends a step: the buffer stays, and the rest of the state but for the stall count. -/
theorem State.stalled_buf (w : State) : w.stall.taken.ctrl.buf = w.ctrl.buf := rfl

theorem State.stalled_rest {w : State} (h : w = { s with ctrl := w.ctrl, reply := .event }) :
    w.stall.taken = { s with ctrl := w.stall.taken.ctrl, stalls := s.stalls + 1, reply := .event } := by
  generalize w.ctrl = c at h
  subst h
  rfl

theorem State.stalled_fault {w : State} (h : w = { s with ctrl := w.ctrl, reply := .event }) :
    w.stall.taken.fault = s.fault := by rw [State.stalled_rest h]

/-- Where the bytes of the data packet lie in the control buffer, once it is stored. -/
theorem State.awaitsCoding_stored {u : State} (hu : u.ctrl.buf = ((s.awaitsCoding v0 v1 l0).stored data).ctrl.buf) :
    (∀ k, k < data.length → u.readByte .cbuf k = data.getD k 0) ∧
    (∀ x, data.length ≤ x → u.readByte .cbuf x = s.readByte .cbuf x) := by
  obtain ⟨hin, hout⟩ := (s.awaitsCoding v0 v1 l0).stored_read data
  have hcur : (s.awaitsCoding v0 v1 l0).ctrl.cursor = 0 := rfl
  rw [hcur] at hin hout
  refine ⟨fun k hk => ?_, fun x hx => ?_⟩
  · change u.ctrl.buf.read k = _
    rw [hu, ← hin k hk, Nat.zero_add]
  · change u.ctrl.buf.read x = _
    rw [hu, hout x (.inr (by rwa [Nat.zero_add]))]
    rfl

end

/-- Settles O54: the coding is judged when the data packet completes the declared length, before the status stage. -/
theorem setLineCodingTransfer : Obligations.SetLineCodingTransfer := by
  unfold Obligations.SetLineCodingTransfer
  intro s v0 v1 l0 data hfault hf p stored
  refine ⟨fun c hl0 hl hc hleg => ?_, fun hpos hfit hd hbad => ?_, fun hl0 => ?_⟩
  · subst hl0
    have hsetup : exec (.evSetup p) s = .next (s.awaitsCoding v0 v1 7) := exec_setLineCoding_setup (by decide)
    have hdata := exec_setLineCoding_served (s := s) (v0 := v0) (v1 := v1) (l0 := 7) (hl.trans_le (by decide)) hl
      (State.Filtered.applies_setLineCoding hf hl hc hleg)
    have hbuf := State.awaitsCoding_stored (s := s) (v0 := v0) (v1 := v1) (l0 := 7) (data := data) rfl
    rw [State.completeRequest_status] at hdata
    · have hstatus := exec_statusDone (((s.awaitsCoding v0 v1 7).stored data).withCoding c) rfl
      have hrun1 := execAll_cons (is := [.evCtrlOut data, .evCtrlInDone]) hsetup hfault
      have hrun2 := execAll_cons (is := [.evCtrlInDone]) hdata hfault
      have hrun3 := execAll_cons (is := []) hstatus hfault
      rw [hl] at hbuf
      exact ⟨_, hrun1.trans (hrun2.trans hrun3), rfl, rfl, hbuf⟩
    · exact fun h => nomatch h.1.symm.trans (setLineCodingSetup_dirIn v0 v1 7)
  · have hsetup : exec (.evSetup p) s = .next (s.awaitsCoding v0 v1 l0) := exec_setLineCoding_setup hpos
    have hdata := exec_setLineCoding_rejected (s := s) (v0 := v0) (v1 := v1) hf hfit hd hbad
    have hwait := s.awaitsCoding_rest v0 v1 l0
    have hrun := execAll_cons (is := [.evCtrlOut data]) hsetup ((congrArg State.fault hwait).trans hfault)
    by_cases hle : data.length ≤ l0.toNat
    · rw [if_pos hle] at hdata ⊢
      have hw : (s.awaitsCoding v0 v1 l0).stored data =
          { s with ctrl := ((s.awaitsCoding v0 v1 l0).stored data).ctrl, reply := .event } := by
        rw [State.stored_rest, hwait]
      exact ⟨_, hrun.trans (execAll_cons (is := []) hdata ((State.stalled_fault hw).trans hfault)), rfl,
        State.stalled_rest hw, State.awaitsCoding_stored (State.stalled_buf _)⟩
    · rw [if_neg hle] at hdata ⊢
      exact ⟨_, hrun.trans (execAll_cons (is := []) hdata ((State.stalled_fault hwait).trans hfault)), rfl,
        State.stalled_rest hwait, fun k hk => absurd hk (Nat.not_lt_zero k), fun x _ => rfl⟩
  · have hserved := State.Filtered.rejects_setLineCoding (s := s.begun p) (v0 := v0) (v1 := v1) (l0 := l0) (data := [])
      hf (.inr (.inl (by decide)))
    have hnow : ¬ ((requestOf p).dirIn = false ∧ 0 < (requestOf p).wLength.toNat) := by
      rintro ⟨-, hpos⟩
      have hpos' := hpos.trans_eq (setLineCodingSetup_wLength v0 v1 l0)
      exact absurd hpos' (by rw [hl0]; decide)
    exact ⟨_, exec_evSetup_served hnow hserved, rfl, rfl, fun k hk => absurd hk (Nat.not_lt_zero k), fun x _ => rfl⟩

end Sys2Proof.Machine
end

section
/-! SUPPORT. A packet submitted to an IN endpoint: the queue, its slots and packet memory (42_endpoint_engine.md R174). -/

namespace Sys2Proof.Machine

/-! ## The queue of an IN endpoint -/

/-- The slots that hold the queued packets, oldest first. -/
def Endpoint.queueSlots (e : Endpoint) : List (Fin 2) :=
  match e.inFlight with
  | 0 => []
  | 1 => [e.hwIdx]
  | _ => [e.hwIdx, e.succ e.hwIdx]

theorem State.queued_eq_map (s : State) (a : EpAddr) :
    s.queued a = (s.ep a).queueSlots.map fun i => s.slotBytes ((s.ep a).slot i) := by
  unfold State.queued Endpoint.queueSlots
  split <;> simp_all

section
variable {e : Endpoint} {n : Nat} {i : Fin 2}

theorem Endpoint.hasSlot_succ (e : Endpoint) (i : Fin 2) : e.hasSlot (e.succ i) := by
  unfold Endpoint.succ Endpoint.hasSlot
  cases e.dbl <;> simp

theorem Endpoint.hasSlot_of_mem (h : i ∈ e.queueSlots) : e.hasSlot i := by
  unfold Endpoint.queueSlots at h
  have h0 : e.hasSlot e.hwIdx := e.hasSlot_wrap _
  have h1 : e.hasSlot (e.succ e.hwIdx) := e.hasSlot_succ _
  split at h
  · cases h
  · rwa [List.mem_singleton.1 h]
  · rcases List.mem_pair.1 h with rfl | rfl
    · exact h0
    · exact h1

theorem Endpoint.inFlight_reset (d : Dir) : (Endpoint.reset d).inFlight = 0 := by cases d <;> rfl

/-- An endpoint that is not configured has nothing queued. -/
theorem Endpoint.Inv.queueSlots_idle {d : Dir} (h : e.Inv d) (hc : e.cfg = false) : e.queueSlots = [] := by
  unfold Endpoint.queueSlots
  rw [h.idle hc, Endpoint.inFlight_reset]
  rfl

theorem Endpoint.inFlight_le (e : Endpoint) : e.inFlight ≤ e.K := by
  unfold Endpoint.inFlight Endpoint.count Endpoint.K
  grind

/-- While fewer than `K` packets wait for the host, the slot software writes next is empty. -/
theorem Endpoint.Inv.next_state (h : e.Inv .IN) (hf : e.inFlight ≠ e.K) : (e.slot e.swIdx).state = .EMPTY := by
  refine (h.slotOk e.swIdx).kind.resolve_right fun hl => ?_
  cases hd : e.dbl with
  | true =>
    have hb := h.next_empty hd hf
    rw [Endpoint.swIdx, (Endpoint.wrap_double hd _).1] at hl
    simp [Endpoint.busyAt, hl, SlotState.busy] at hb
  | false =>
    rw [Endpoint.swIdx, (Endpoint.wrap_single hd _).1] at hl
    have hl0 : e.slot0.state = .LOADED := hl
    exact hf (by simp [Endpoint.inFlight, Endpoint.count, Endpoint.K, hd, hl0])

theorem Endpoint.Inv.inFlight_afterSubmit (h : e.Inv .IN) (hf : e.inFlight ≠ e.K) :
    (e.afterSubmit n).inFlight = e.inFlight + 1 := by
  have hcount := e.count_advance (i := e.swIdx) (sl := { e.slot e.swIdx with len := n, state := .LOADED })
    (hw := e.hwNext) (sw := e.succ e.swIdx) (q := e.irq) .LOADED (e.hasSlot_wrap _)
  rw [h.next_state hf, if_neg (by decide), if_pos rfl] at hcount
  exact hcount

/-- Software writes behind what is queued: with nothing queued it is at the slot hardware sends next, with one packet at the
other slot. -/
theorem Endpoint.Inv.queue_place (h : e.Inv .IN) (hf : e.inFlight ≠ e.K) :
    (e.inFlight = 0 ∧ e.swIdx = e.hwIdx) ∨ (e.inFlight = 1 ∧ e.swIdx = e.succ e.hwIdx ∧ e.swIdx ≠ e.hwIdx) := by
  have hle := e.inFlight_le
  have hst := h.next_state hf
  cases hd : e.dbl with
  | false =>
    have hK : e.K = 1 := by simp [Endpoint.K, hd]
    exact .inl ⟨by omega, by simp [Endpoint.swIdx, Endpoint.hwIdx, Endpoint.wrap, hd]⟩
  | true =>
    have hsw : e.swIdx = e.swNext := (Endpoint.wrap_double hd _).1
    have hhw : e.hwIdx = e.hwNext := (Endpoint.wrap_double hd _).1
    have hcount : e.inFlight = (if e.busyAt 0 then 1 else 0) + (if e.busyAt 1 then 1 else 0) := by
      have hk0 := h.kind0
      have hk1 := h.kind1
      rcases hk0 with h0 | h0 <;> rcases hk1 with h1 | h1 <;>
        simp [Endpoint.inFlight, Endpoint.count, Endpoint.busyAt, Endpoint.slot, SlotState.busy, hd, h0, h1]
    have hturn : SlotsInTurn e.busyAt e.hwNext e.swNext := h.inTurn hd
    have hfree : e.busyAt e.swNext = false := h.next_empty hd hf
    rw [hcount, hsw, hhw, (Endpoint.wrap_double hd _).2]
    generalize e.busyAt = b at hturn hfree
    generalize e.hwNext = o at hturn
    generalize e.swNext = w at hturn hfree
    revert b o w
    unfold SlotsInTurn
    decide

/-- A submitted packet goes behind what is queued. -/
theorem Endpoint.Inv.queueSlots_afterSubmit (h : e.Inv .IN) (hf : e.inFlight ≠ e.K) :
    (e.afterSubmit n).queueSlots = e.queueSlots ++ [e.swIdx] := by
  have hw : (e.afterSubmit n).hwIdx = e.hwIdx := by
    rw [Endpoint.afterSubmit, Endpoint.advance_rest]
    rfl
  have hsucc : (e.afterSubmit n).succ = e.succ := by
    rw [Endpoint.afterSubmit, Endpoint.advance_rest]
    rfl
  unfold Endpoint.queueSlots
  rw [h.inFlight_afterSubmit hf, hw, hsucc]
  rcases h.queue_place hf with ⟨hn, hp⟩ | ⟨hn, hp, -⟩
  · rw [hn, hp]
    rfl
  · rw [hn, hp]
    rfl

/-- The slot software writes next holds none of the queued packets. -/
theorem Endpoint.Inv.next_not_queued (h : e.Inv .IN) (hf : e.inFlight ≠ e.K) : e.swIdx ∉ e.queueSlots := by
  unfold Endpoint.queueSlots
  rcases h.queue_place hf with ⟨hn, -⟩ | ⟨hn, -, hne⟩
  · rw [hn]
    exact List.not_mem_nil
  · rw [hn]
    exact fun hm => hne (List.mem_singleton.1 hm)

theorem Endpoint.slot_afterSubmit_self (e : Endpoint) (n : Nat) :
    (e.afterSubmit n).slot e.swIdx = { e.slot e.swIdx with len := n, state := .LOADED } := e.slot_setSlot_self _ _

theorem Endpoint.slot_afterSubmit_other (h : i ≠ e.swIdx) : (e.afterSubmit n).slot i = e.slot i :=
  e.slot_setSlot_other _ h

theorem Endpoint.afterSubmit_sameLayout (e : Endpoint) (n : Nat) : e.SameLayout (e.afterSubmit n) :=
  Endpoint.sameLayout_advance rfl

end

/-! ## Submitting a packet -/

/-- `s` with the packet `data` submitted to the IN endpoint `a`. -/
def State.submitted (s : State) (a : EpAddr) (data : List Byte) : State :=
  { s with pma := s.pma.writeBytes ((s.ep a).slot (s.ep a).swIdx).pma data }.setEp a ((s.ep a).afterSubmit data.length)

/-- The IN endpoint `a` takes one more packet of `n` bytes. -/
structure State.Takes (s : State) (a : EpAddr) (n : Nat) : Prop where
  dir : a.dir = .IN
  cfg : (s.ep a).cfg = true
  fits : n ≤ (s.ep a).mps
  free : (s.ep a).inFlight ≠ (s.ep a).K

section
variable {s : State} {a b : EpAddr} {data : List Byte} {i : Fin 2}

/-- Bytes elsewhere do not change what a slot holds. -/
theorem Memory.readBytes_writeBytes_other (m : Memory) {p q n : Nat} {bs : List Byte}
    (h : q + n ≤ p ∨ p + bs.length ≤ q) : (m.writeBytes p bs).readBytes q n = m.readBytes q n := by
  rw [Memory.readBytes_eq_map, Memory.readBytes_eq_map]
  refine List.map_congr_left fun k hk => Memory.read_writeBytes_other _ _ _ ?_
  have := List.mem_range.1 hk
  omega

theorem State.epTransmit_takes (hs : s.EndpointInv) (h : s.Takes a data.length) :
    s.epTransmit a data = .ok (s.submitted a data, .OK) :=
  have hfit := hs.slot_fits h.cfg ((s.ep a).hasSlot_wrap (s.ep a).swNext)
  State.epTransmit_eq_ok.2 ⟨h.dir, h.cfg, h.fits, .inr ⟨h.free, (Nat.add_le_add_left h.fits _).trans hfit,
    by rw [Endpoint.afterSubmit_eq]; rfl, rfl⟩⟩

theorem State.submitted_rest (s : State) (hd : a.dir = .IN) (data : List Byte) :
    s.submitted a data = { s with pma := (s.submitted a data).pma, epIn := (s.submitted a data).epIn } := by
  rw [State.submitted, State.setEp_frame_in _ _ hd]

theorem State.submitted_pma (s : State) (a : EpAddr) (data : List Byte) :
    (s.submitted a data).pma = s.pma.writeBytes ((s.ep a).slot (s.ep a).swIdx).pma data := State.setEp_pma _ _ _

theorem State.ep_submitted_self (hc : (s.ep a).cfg = true) :
    (s.submitted a data).ep a = (s.ep a).afterSubmit data.length :=
  State.ep_setEp_self _ _ (State.num_ne_zero_of_cfg hc)

theorem State.ep_submitted_other (h : b ≠ a) : (s.submitted a data).ep b = s.ep b :=
  State.ep_setEp_other _ _ h

theorem State.readByte_submitted {x : Nat} (h : x < ((s.ep a).slot (s.ep a).swIdx).pma ∨
    ((s.ep a).slot (s.ep a).swIdx).pma + data.length ≤ x) :
    (s.submitted a data).readByte .pma x = s.readByte .pma x := by
  change (s.submitted a data).pma.read x = s.pma.read x
  rw [State.submitted_pma]
  exact Memory.read_writeBytes_other _ _ _ h

theorem State.slotBytes_submitted (hs : s.EndpointInv) (hsep : s.SlotsDisjoint) (h : s.Takes a data.length)
    (hb : (s.ep b).cfg = true) (hi : (s.ep b).hasSlot i) (hne : (b, i) ≠ (a, (s.ep a).swIdx)) :
    (s.submitted a data).slotBytes ((s.ep b).slot i) = s.slotBytes ((s.ep b).slot i) := by
  rw [State.slotBytes, State.submitted_pma]
  have hap := hsep b a i (s.ep a).swIdx hb h.cfg hi ((s.ep a).hasSlot_wrap _) hne
  have hlen := ((hs.eps b).slotOk i).len
  have hfit := h.fits
  exact Memory.readBytes_writeBytes_other _ (by omega)

/-- Another endpoint keeps its queue. -/
theorem State.queued_submitted_other (hs : s.EndpointInv) (hsep : s.SlotsDisjoint) (h : s.Takes a data.length)
    (hb : b ≠ a) : (s.submitted a data).queued b = s.queued b := by
  rw [State.queued_eq_map, State.queued_eq_map, State.ep_submitted_other hb]
  cases hc : (s.ep b).cfg with
  | false => rw [(hs.eps b).queueSlots_idle hc]; rfl
  | true =>
    exact List.map_congr_left fun i hi => State.slotBytes_submitted hs hsep h hc (Endpoint.hasSlot_of_mem hi)
      fun heq => hb (congrArg Prod.fst heq)

/-- The packet is queued behind what the endpoint held. -/
theorem State.queued_submitted_self (hs : s.EndpointInv) (hsep : s.SlotsDisjoint) (h : s.Takes a data.length) :
    (s.submitted a data).queued a = s.queued a ++ [data] := by
  have hinv : (s.ep a).Inv .IN := h.dir ▸ hs.eps a
  rw [State.queued_eq_map, State.queued_eq_map, State.ep_submitted_self h.cfg, hinv.queueSlots_afterSubmit h.free,
    List.map_append]
  congr 1
  · refine List.map_congr_left fun i hi => ?_
    have hne : i ≠ (s.ep a).swIdx := fun heq => hinv.next_not_queued h.free (heq ▸ hi)
    rw [Endpoint.slot_afterSubmit_other hne]
    exact State.slotBytes_submitted hs hsep h h.cfg (Endpoint.hasSlot_of_mem hi) fun heq => hne (congrArg Prod.snd heq)
  · rw [List.map_singleton, Endpoint.slot_afterSubmit_self, State.slotBytes, State.submitted_pma]
    exact congrArg (· :: []) (Memory.readBytes_writeBytes _ _ data)

/-- What the rest of the state leaves of the queues. -/
theorem State.queued_congr {t : State} (ho : t.epOut = s.epOut) (hi : t.epIn = s.epIn) (hp : t.pma = s.pma) (b : EpAddr) :
    t.queued b = s.queued b := by
  rw [State.queued_eq_map, State.queued_eq_map, State.ep_congr ho hi b]
  simp only [State.slotBytes, hp]

/-! ## What a submission and the moves around it keep -/

theorem Changes.keeps_slotsDisjoint {i : Instr} {t : State} (h : Changes i s t) (hs : s.EndpointInv)
    (hsep : s.SlotsDisjoint) : t.SlotsDisjoint :=
  (h.keeps (P := fun u => u.EndpointInv ∧ u.SlotsDisjoint)
    (fun hc hu => ⟨hc.keeps_endpoints hu.1, hc.keeps_slotsDisjoint hu.1 hu.2⟩) ⟨hs, hsep⟩).2

end

end Sys2Proof.Machine
end

section
/-! PROOF. The SERIAL_STATE notification (O57). -/

namespace Sys2Proof.Machine

section
variable {s : State} {data : List Byte}

/-- The serial state the notification carries (R291). -/
theorem State.serialState_eq (s : State) :
    s.serialState = s.br.pending ||| (if s.pin.dcdW then 0 else 1) ||| (if s.pin.dsrW then 0 else 2) := by
  unfold State.serialState
  cases hc : s.pin.dcdW <;> cases hr : s.pin.dsrW <;> simp [Pins.dcd, Pins.dsr, hc, hr]

theorem State.notifyDue_iff : s.NotifyDue ↔ s.serialState ≠ s.br.lastState ∨ s.br.pending ≠ 0 := by
  rw [State.serialState_eq]
  rfl

theorem State.notify_idle (h : ¬ s.NotifyDue) : s.notify = .ok s := if_neg (mt State.notifyDue_iff.2 h)

/-- The fault of the submission is the notification's. -/
theorem State.notify_error {x : Stop} (h : s.NotifyDue)
    (he : s.epTransmit Config.epIntIn (serialStatePacket s.serialState) = .error x) : s.notify = .error x := by
  unfold State.notify
  rw [if_pos (State.notifyDue_iff.1 h), he]

/-- An endpoint that is busy leaves the notification for a later poll. -/
theorem State.notify_busy (h : s.NotifyDue)
    (hb : s.epTransmit Config.epIntIn (serialStatePacket s.serialState) = .ok (s, .BUSY)) : s.notify = .ok s := by
  unfold State.notify
  rw [if_pos (State.notifyDue_iff.1 h), hb]

/-- `s` with the notification submitted, and the state sent remembered. -/
def State.notified (s : State) : State :=
  { s.submitted Config.epIntIn (serialStatePacket s.serialState) with
    br := { s.br with lastState := s.serialState, pending := 0 } }

theorem State.notify_sent (hs : s.EndpointInv) (h : s.NotifyDue) (hfree : s.Takes Config.epIntIn 10) :
    s.notify = .ok s.notified := by
  have hbr : (s.submitted Config.epIntIn (serialStatePacket s.serialState)).br = s.br := State.setEp_br _ _ _
  unfold State.notify
  rw [if_pos (State.notifyDue_iff.1 h), State.epTransmit_takes hs hfree, State.notified, ← hbr]

/-- A packet longer than the endpoint takes. -/
theorem State.epTransmit_tooLong {a : EpAddr} (hd : a.dir = .IN) (hc : (s.ep a).cfg = true)
    (hl : (s.ep a).mps < data.length) : s.epTransmit a data = .error (.misuse .PACKET_TOO_LONG) := by
  rw [State.epTransmit, State.epFor_eq_ok.2 ⟨hd, hc, rfl⟩]
  exact if_pos hl

end

/-- Settles O57: what the submission to the interrupt endpoint answers is what the notification does. -/
theorem notify : Obligations.Notify := by
  unfold Obligations.Notify
  intro s hs hsep st i sl
  have hst : s.serialState = st := s.serialState_eq
  refine ⟨State.notify_idle, fun hdue hc => ?_, fun hdue hc hm => ?_, fun hdue hc hm hb => ?_, fun hdue hc hm hf => ?_⟩
  · exact State.notify_error hdue (State.epTransmit_unusable (.inr hc) _)
  · exact State.notify_error hdue (State.epTransmit_tooLong rfl hc hm)
  · exact State.notify_busy hdue (State.epTransmit_eq_ok.2 ⟨rfl, hc, hm, .inl ⟨hb, rfl, rfl⟩⟩)
  · have hfree : s.Takes Config.epIntIn 10 := ⟨rfl, hc, hm, hf⟩
    refine ⟨s.notified, State.notify_sent hs hdue hfree, ?_, fun b hb => ⟨?_, ?_⟩, ?_, ?_, fun x hx => ?_⟩
    · rw [State.notified, ← hst, State.submitted_rest (a := Config.epIntIn) _ rfl]
    · exact State.ep_submitted_other hb
    · exact State.queued_submitted_other hs hsep hfree hb
    · exact (State.ep_submitted_self hc).trans (Endpoint.afterSubmit_eq _ _).symm
    · rw [← hst]
      exact State.queued_submitted_self (data := serialStatePacket s.serialState) hs hsep hfree
    · exact State.readByte_submitted hx

end Sys2Proof.Machine
end

section
/-! PROOF. Draining the RX window into bulk IN packets (O58). -/

namespace Sys2Proof.Machine

section
variable {s t : State} {k l n : Nat} {now : Word}

/-! ## One packet of received bytes (44_cdc_bridge.md R293) -/

theorem maskFor_append (c : LineCoding) (b d : List Byte) : maskFor c (b ++ d) = maskFor c b ++ maskFor c d := by
  unfold maskFor
  split
  · exact List.map_append
  · rfl

/-- The window after `k` of its bytes were read. -/
def RxWindow.drained (x : RxWindow) (k : Nat) : RxWindow := { x with tail := (x.tail + k) % x.cap, lastLen := x.len - k }

theorem RxWindow.drained_eq {x : RxWindow} (hk : k ≤ x.len) :
    x.drained k = { x with tail := (x.tail + min x.len k) % x.cap, lastLen := x.len - min x.len k } := by
  rw [Nat.min_eq_right hk]
  rfl

theorem RxWindow.drained_len {x : RxWindow} (h : x.InRange) (hk : k ≤ x.len) : (x.drained k).len = x.len - k := by
  rw [RxWindow.drained_eq hk]
  exact RxWindow.len_drained h _ _

theorem RxWindow.drained_contents {x : RxWindow} (h : x.InRange) (hk : k ≤ x.len) :
    (x.drained k).contents = x.contents.drop k := by
  rw [RxWindow.drained_eq hk, Nat.min_comm]
  exact Ring.take_contents h.ring k

theorem RxWindow.drained_drained {x : RxWindow} (h : x.InRange) (hk : k ≤ x.len) :
    (x.drained k).drained l = x.drained (k + l) := by
  have hlen := RxWindow.drained_len h hk
  unfold RxWindow.drained at hlen ⊢
  simp only [hlen, Nat.mod_add_mod, Nat.add_assoc, Nat.sub_sub]

/-- The oldest `k` unread bytes, as they are forwarded. -/
def State.oldest (s : State) (k : Nat) : List Byte := maskFor s.uart.coding (s.rx.contents.take k)

/-- `s` with the oldest `k` unread bytes queued as one packet of the bulk IN endpoint. -/
def State.sent (s : State) (k : Nat) : State :=
  { s with rx := s.rx.drained k }.submitted Config.epBulkIn (s.oldest k)

/-- The `k` oldest bytes are there, and the bulk IN endpoint takes them. -/
structure State.Sends (s : State) (k : Nat) : Prop where
  armed : s.rx.armed = true
  unread : k ≤ s.rx.len
  takes : s.Takes Config.epBulkIn k

theorem State.oldest_length (hk : k ≤ s.rx.len) : (s.oldest k).length = k := by
  rw [State.oldest, maskFor_length, List.length_take, RxWindow.contents, List.length_map, List.length_range,
    Nat.min_eq_left hk]

/-- The packet's checks do not look at the RX window. -/
theorem State.Sends.submits (hs : s.EndpointInv) (h : s.Sends k) :
    State.EndpointInv { s with rx := s.rx.drained k } ∧
      State.Takes { s with rx := s.rx.drained k } Config.epBulkIn (s.oldest k).length := by
  rw [State.oldest_length h.unread]
  exact ⟨⟨hs.eps, hs.handler, hs.callback, hs.pma_lo, hs.pma_hi, hs.slot0, hs.slot1⟩,
    ⟨h.takes.dir, h.takes.cfg, h.takes.fits, h.takes.free⟩⟩

/-- The sending loop's next packet. -/
theorem State.sendPackets_succ (hs : s.EndpointInv) (hser : s.SerialInv) (h : s.Sends k) {m left lastk : Nat}
    (hpos : left ≠ 0) (hk : min (s.ep Config.epBulkIn).mps left = k) :
    s.sendPackets (s.ep Config.epBulkIn).mps (m + 1) left lastk =
      (s.sent k).sendPackets (s.ep Config.epBulkIn).mps m (left - k) k := by
  have hcopy : s.uartCopyRx k = ({ s with rx := s.rx.drained k }, s.oldest k) := by
    refine Prod.ext ?_ (s.uartCopyRx_snd k hser.rx h.armed)
    rw [State.uartCopyRx_fst, if_pos h.armed, RxWindow.drained_eq h.unread]
  have hsub := h.submits hs
  have htx : { s with rx := s.rx.drained k }.epTransmit Config.epBulkIn (s.oldest k) = .ok (s.sent k, .OK) :=
    State.epTransmit_takes hsub.1 hsub.2
  rw [State.sendPackets, if_neg hpos, hk]
  simp only [hcopy, htx]

theorem State.sent_rest (s : State) (k : Nat) :
    s.sent k = { s with rx := s.rx.drained k, pma := (s.sent k).pma, epIn := (s.sent k).epIn } :=
  State.submitted_rest { s with rx := s.rx.drained k } rfl _

theorem State.sent_changes {i : Instr} (hs : s.EndpointInv) (hser : s.SerialInv) (h : s.Sends k) (hpos : k ≠ 0) :
    Changes i s (s.sent k) :=
  State.sendPackets_changes _ 1 (State.sendPackets_succ hs hser h (lastk := 0) hpos (Nat.min_eq_right h.takes.fits))

theorem State.ep_sent_self (h : s.Sends k) :
    (s.sent k).ep Config.epBulkIn = (s.ep Config.epBulkIn).afterSubmit k := by
  have hself := State.ep_submitted_self (s := { s with rx := s.rx.drained k }) (a := Config.epBulkIn)
    (data := s.oldest k) h.takes.cfg
  rw [State.oldest_length h.unread] at hself
  exact hself

theorem State.ep_sent_other {b : EpAddr} (hb : b ≠ Config.epBulkIn) : (s.sent k).ep b = s.ep b :=
  State.ep_submitted_other hb

theorem State.readByte_sent {x : Nat} (h : s.Sends k)
    (hx : x < ((s.ep Config.epBulkIn).slot (s.ep Config.epBulkIn).swIdx).pma ∨
      ((s.ep Config.epBulkIn).slot (s.ep Config.epBulkIn).swIdx).pma + k ≤ x) :
    (s.sent k).readByte .pma x = s.readByte .pma x :=
  State.readByte_submitted (s := { s with rx := s.rx.drained k }) (by rw [State.oldest_length h.unread]; exact hx)

theorem State.queued_sent_self (hs : s.EndpointInv) (hsep : s.SlotsDisjoint) (h : s.Sends k) :
    (s.sent k).queued Config.epBulkIn = s.queued Config.epBulkIn ++ [s.oldest k] :=
  have hsub := h.submits hs
  State.queued_submitted_self hsub.1 hsep hsub.2

theorem State.queued_sent_other {b : EpAddr} (hs : s.EndpointInv) (hsep : s.SlotsDisjoint) (h : s.Sends k)
    (hb : b ≠ Config.epBulkIn) : (s.sent k).queued b = s.queued b :=
  have hsub := h.submits hs
  State.queued_submitted_other hsub.1 hsep hsub.2 hb

/-- An endpoint that had room for two packets has room for one after the first. -/
theorem Endpoint.Inv.free_afterSubmit {e : Endpoint} (h : e.Inv .IN) (hf : e.inFlight ≠ e.K)
    (hf1 : e.inFlight + 1 ≠ e.K) : (e.afterSubmit k).inFlight ≠ (e.afterSubmit k).K := by
  rw [h.inFlight_afterSubmit hf, Endpoint.K, (e.afterSubmit_sameLayout k).dbl]
  exact hf1

/-- A second packet follows when there is a second slot and bytes remain. -/
theorem State.Sends.next (hs : s.EndpointInv) (hser : s.SerialInv) (h : s.Sends k)
    (hl : k + l ≤ s.rx.len) (hfit : l ≤ (s.ep Config.epBulkIn).mps)
    (hf : (s.ep Config.epBulkIn).inFlight + 1 ≠ (s.ep Config.epBulkIn).K) : (s.sent k).Sends l := by
  have hlay := (s.ep Config.epBulkIn).afterSubmit_sameLayout k
  have hinv : (s.ep Config.epBulkIn).Inv .IN := hs.eps Config.epBulkIn
  refine ⟨?_, ?_, rfl, ?_, ?_, ?_⟩
  · rw [State.sent_rest]
    exact h.armed
  · rw [State.sent_rest]
    have := RxWindow.drained_len hser.rx h.unread
    exact this ▸ Nat.le_sub_of_add_le' hl
  · rw [State.ep_sent_self h, hlay.cfg]
    exact h.takes.cfg
  · rw [State.ep_sent_self h, hlay.mps]
    exact hfit
  · rw [State.ep_sent_self h]
    exact hinv.free_afterSubmit h.takes.free hf

/-- The bytes of two packets follow each other. -/
theorem State.oldest_add (hser : s.SerialInv) (h : s.Sends k) :
    s.oldest (k + l) = s.oldest k ++ (s.sent k).oldest l := by
  have hrx : (s.sent k).rx = s.rx.drained k := by rw [State.sent_rest]
  have hcoding : (s.sent k).uart.coding = s.uart.coding := by rw [State.sent_rest]
  rw [State.oldest, State.oldest, State.oldest, hrx, hcoding, RxWindow.drained_contents hser.rx h.unread,
    ← maskFor_append, List.take_add]

/-! ## A batch of packets -/

/-- `t` is `s` after its oldest `n` unread bytes went to the bulk IN endpoint, which became `r`. -/
structure State.Forwards (s t : State) (n : Nat) (r : Endpoint) : Prop where
  rest : t = { s with rx := s.rx.drained n, pma := t.pma, epIn := t.epIn }
  here : t.ep Config.epBulkIn = r
  bytes : (t.queued Config.epBulkIn).flatten = (s.queued Config.epBulkIn).flatten ++ s.oldest n
  others : ∀ b, b ≠ Config.epBulkIn → t.ep b = s.ep b ∧ t.queued b = s.queued b

theorem State.Sends.forwards (hs : s.EndpointInv) (hsep : s.SlotsDisjoint) (h : s.Sends k) :
    s.Forwards (s.sent k) k ((s.ep Config.epBulkIn).afterSubmit k) where
  rest := s.sent_rest k
  here := State.ep_sent_self h
  bytes := by rw [State.queued_sent_self hs hsep h, List.flatten_append, List.flatten_singleton]
  others _ hb := ⟨State.ep_sent_other hb, State.queued_sent_other hs hsep h hb⟩

/-- Two packets, one after the other. -/
theorem State.Sends.forwards_two (hs : s.EndpointInv) (hsep : s.SlotsDisjoint) (hser : s.SerialInv) (h : s.Sends k)
    (hpos : k ≠ 0) (h' : (s.sent k).Sends l) :
    s.Forwards ((s.sent k).sent l) (k + l) (((s.ep Config.epBulkIn).afterSubmit k).afterSubmit l) where
  rest := by
    have hrest := s.sent_rest k
    have hrest' := (s.sent k).sent_rest l
    have hrx : (s.sent k).rx.drained l = s.rx.drained (k + l) := by
      rw [congrArg State.rx hrest]
      exact RxWindow.drained_drained hser.rx h.unread
    rw [hrx] at hrest'
    generalize (s.sent k).sent l = t at hrest' ⊢
    rw [hrest] at hrest'
    exact hrest'
  here := by rw [State.ep_sent_self h', State.ep_sent_self h]
  bytes := by
    have hc : Changes .evBusReset s (s.sent k) := State.sent_changes hs hser h hpos
    rw [((h'.forwards (hc.keeps_endpoints hs) (hc.keeps_slotsDisjoint hs hsep)).bytes), (h.forwards hs hsep).bytes,
      State.oldest_add hser h, List.append_assoc]
  others b hb := by
    have hc : Changes .evBusReset s (s.sent k) := State.sent_changes hs hser h hpos
    obtain ⟨hep, hq⟩ := (h.forwards hs hsep).others b hb
    obtain ⟨hep', hq'⟩ := (h'.forwards (hc.keeps_endpoints hs) (hc.keeps_slotsDisjoint hs hsep)).others b hb
    exact ⟨hep'.trans hep, hq'.trans hq⟩

theorem State.sendPackets_none (s : State) (mps m k : Nat) : s.sendPackets mps m 0 k = .ok (s, k) := by
  cases m
  · rfl
  · exact if_pos rfl

/-- What fits one packet goes in one packet. -/
theorem State.sendPackets_one (hs : s.EndpointInv) (hser : s.SerialInv) (h : s.Sends k) (hpos : k ≠ 0) (m lastk : Nat) :
    s.sendPackets (s.ep Config.epBulkIn).mps (m + 1) k lastk = .ok (s.sent k, k) := by
  rw [State.sendPackets_succ hs hser h hpos (Nat.min_eq_right h.takes.fits), Nat.sub_self, State.sendPackets_none]

/-- What fits two packets goes in a full one and the rest. -/
theorem State.sendPackets_two (hs : s.EndpointInv) (hser : s.SerialInv) (h : s.Sends (s.ep Config.epBulkIn).mps)
    (hpos : (s.ep Config.epBulkIn).mps ≠ 0) (h' : (s.sent (s.ep Config.epBulkIn).mps).Sends l) (hl : l ≠ 0)
    (m lastk : Nat) : s.sendPackets (s.ep Config.epBulkIn).mps (m + 2) ((s.ep Config.epBulkIn).mps + l) lastk =
      .ok ((s.sent (s.ep Config.epBulkIn).mps).sent l, l) := by
  have hc : Changes .evBusReset s (s.sent (s.ep Config.epBulkIn).mps) := State.sent_changes hs hser h hpos
  have hmps : ((s.sent (s.ep Config.epBulkIn).mps).ep Config.epBulkIn).mps = (s.ep Config.epBulkIn).mps := by
    rw [State.ep_sent_self h]
    exact ((s.ep Config.epBulkIn).afterSubmit_sameLayout _).mps
  have hone := State.sendPackets_one (hc.keeps_endpoints hs) (hc.keeps_serial hser) h' hl m (s.ep Config.epBulkIn).mps
  rw [hmps] at hone
  rw [State.sendPackets_succ hs hser h (by omega) (Nat.min_eq_left (Nat.le_add_right _ _)), Nat.add_sub_cancel_left, hone]

/-! ## When bytes are forwarded (44_cdc_bridge.md R292) -/

/-- A batch sent at `now` is remembered, with whether a zero-length packet is owed. -/
def State.batched (s : State) (now : Word) (zlp : Bool) : State :=
  { s with br := { s.br with lastTxTime := now, zlpNeeded := zlp } }

theorem State.rxToUsb_unconfigured (h : (s.ep Config.epBulkIn).cfg = false) : s.rxToUsb now = .ok s :=
  if_pos (by rw [h]; rfl)

theorem State.rxToUsb_full (h : (s.ep Config.epBulkIn).inFlight = (s.ep Config.epBulkIn).K) : s.rxToUsb now = .ok s := by
  unfold State.rxToUsb
  simp only [h, Nat.lt_irrefl, Nat.sub_self, if_true, if_false, ite_self]

/-- An owed zero-length packet goes alone (R294). -/
theorem State.rxToUsb_owed (hs : s.EndpointInv) (h : s.Takes Config.epBulkIn 0) (hz : s.br.zlpNeeded = true) :
    s.rxToUsb now = .ok ((s.submitted Config.epBulkIn []).batched now false) := by
  have hlt := Nat.lt_of_le_of_ne (s.ep Config.epBulkIn).inFlight_le h.free
  unfold State.rxToUsb
  simp only [h.cfg, hz, Bool.not_true, Bool.false_eq_true, if_false, if_true, if_pos hlt,
    State.epTransmit_takes (data := []) hs h, Except.map]
  rfl

theorem State.rxToUsb_notDue (hz : s.br.zlpNeeded = false)
    (h : s.uartRxLen = 0 ∨ dueWith Config.minBatch Config.maxAge s.uartRxLen now s.br.lastTxTime = false) :
    s.rxToUsb now = .ok s := by
  unfold State.rxToUsb
  simp only [hz, Bool.false_eq_true, if_false]
  rcases h with h | h <;> simp [h]

theorem State.rxToUsb_due (hc : (s.ep Config.epBulkIn).cfg = true)
    (hf : (s.ep Config.epBulkIn).inFlight ≠ (s.ep Config.epBulkIn).K) (hz : s.br.zlpNeeded = false)
    (hpos : s.uartRxLen ≠ 0) (hdue : dueWith Config.minBatch Config.maxAge s.uartRxLen now s.br.lastTxTime = true) :
    s.rxToUsb now =
      (s.sendPackets (s.ep Config.epBulkIn).mps ((s.ep Config.epBulkIn).K - (s.ep Config.epBulkIn).inFlight)
        (min s.uartRxLen (((s.ep Config.epBulkIn).K - (s.ep Config.epBulkIn).inFlight) * (s.ep Config.epBulkIn).mps)) 0).map
      fun r => r.1.batched now (decide (r.2 = (s.ep Config.epBulkIn).mps)) := by
  have hlt := Nat.lt_of_le_of_ne (s.ep Config.epBulkIn).inFlight_le hf
  unfold State.rxToUsb
  simp only [hc, hz, hdue, Bool.not_true, Bool.false_eq_true, if_false, if_neg hpos, if_neg (Nat.sub_pos_of_lt hlt).ne']
  rfl

theorem State.Forwards.batched_rest {r : Endpoint} (h : s.Forwards t n r) (now : Word) (z : Bool) :
    t.batched now z = { s with
      rx := s.rx.drained n, pma := t.pma, epIn := t.epIn, br := { s.br with lastTxTime := now, zlpNeeded := z } } := by
  rw [State.batched, h.rest]

end

/-- How many packets a batch of one or two takes. -/
theorem packets_one {n m : Nat} (hn : n ≠ 0) (h : n ≤ m) : (n + m - 1) / m = 1 :=
  Nat.div_eq_of_lt_le (by omega) (by omega)

theorem packets_two {l m : Nat} (hl : l ≠ 0) (h : l ≤ m) : (m + l + m - 1) / m = 2 :=
  Nat.div_eq_of_lt_le (by omega) (by omega)

/-- A batch ends in a full packet exactly when its length is a multiple of the packet length (R294). -/
theorem full_iff_dvd {l m : Nat} (hl : l ≠ 0) (h : l ≤ m) : decide (l = m) = decide (l % m = 0) := by
  rcases h.lt_or_eq with hlt | rfl
  · simp [Nat.mod_eq_of_lt hlt, hlt.ne, hl]
  · simp

/-- An endpoint that is not full has one free slot, or two and then one more after the next packet. -/
theorem Endpoint.free_slots {e : Endpoint} (hf : e.inFlight ≠ e.K) :
    e.K - e.inFlight = 1 ∨ e.K - e.inFlight = 2 ∧ e.inFlight + 1 ≠ e.K := by
  have hlt := Nat.lt_of_le_of_ne e.inFlight_le hf
  have hK : e.K ≤ 2 := by
    unfold Endpoint.K
    split <;> decide
  omega

/-- Bytes for more than one packet go to an endpoint with two free slots. -/
theorem Endpoint.free_two {e : Endpoint} {n : Nat} (hf : e.inFlight ≠ e.K) (hmore : ¬ n ≤ e.mps)
    (hroom : n ≤ (e.K - e.inFlight) * e.mps) : e.K - e.inFlight = 2 ∧ e.inFlight + 1 ≠ e.K ∧ n ≤ 2 * e.mps := by
  rcases Endpoint.free_slots hf with h | ⟨h, hf1⟩
  · rw [h, Nat.one_mul] at hroom
    exact absurd hroom hmore
  · rw [h] at hroom
    exact ⟨h, hf1, hroom⟩

/-- Settles O58: a batch is one packet or a full one and the rest, each queued behind what the endpoint holds. -/
theorem rxToUsb : Obligations.RxToUsb := by
  unfold Obligations.RxToUsb
  intro s now hs hsep hser a i avail due n filled
  have hfilled : ∀ e len, filled e len = e.afterSubmit len := Endpoint.afterSubmit_eq
  have hinv : i.Inv .IN := hs.eps a
  refine ⟨State.rxToUsb_unconfigured, fun _ => State.rxToUsb_full, fun hc hf hz => ?_, fun hc hf hz => ?_⟩
  · have h : s.Takes a 0 := ⟨rfl, hc, Nat.zero_le _, hf⟩
    refine ⟨_, State.rxToUsb_owed hs h hz, ?_, ?_, ?_, fun b hb => ⟨?_, ?_⟩⟩
    · rw [State.batched, State.submitted_rest (a := a) _ rfl, State.submitted_pma]
      rfl
    · exact (State.ep_submitted_self (data := []) hc).trans (hfilled i 0).symm
    · exact State.queued_submitted_self (data := []) hs hsep h
    · exact State.ep_submitted_other hb
    · exact State.queued_submitted_other (data := []) hs hsep h hb
  · have hdue : dueWith Config.minBatch Config.maxAge s.uartRxLen now s.br.lastTxTime = true ↔ due := by
      rw [dueWith, Bool.or_eq_true, decide_eq_true_iff, decide_eq_true_iff]
      rfl
    by_cases hidle : avail = 0 ∨ ¬ due
    · refine ⟨s, State.rxToUsb_notDue hz (hidle.imp_right fun h => ?_), by rw [if_pos hidle]⟩
      exact Bool.eq_false_iff.2 (mt hdue.1 h)
    · obtain ⟨hpos, hd⟩ := not_or.1 hidle
      have hrun := State.rxToUsb_due (now := now) hc hf hz hpos (hdue.2 (not_not.1 hd))
      simp only [if_neg hidle, hfilled]
      have harmed : s.rx.armed = true := by
        by_contra h
        exact hpos (if_neg h)
      have hmps : 0 < i.mps := hinv.mps_pos hc
      have hfree := Endpoint.free_slots hf
      have hlen : n ≤ s.rx.len := (Nat.min_le_left _ _).trans_eq (if_pos harmed)
      have hn : n ≠ 0 := by
        have hfull : (i.K - i.inFlight) * i.mps ≠ 0 := by
          rcases hfree with h | ⟨h, -⟩ <;> rw [h] <;> omega
        exact Nat.pos_iff_ne_zero.1 (Nat.lt_min.2 ⟨Nat.pos_of_ne_zero hpos, Nat.pos_of_ne_zero hfull⟩)
      have hroom : n ≤ (i.K - i.inFlight) * i.mps := Nat.min_le_right _ _
      change s.rxToUsb now = (s.sendPackets i.mps (i.K - i.inFlight) n 0).map _ at hrun
      by_cases hone : n ≤ i.mps
      · have h : s.Sends n := ⟨harmed, hlen, rfl, hc, hone, hf⟩
        have hsent : s.sendPackets i.mps (i.K - i.inFlight) n 0 = .ok (s.sent n, n) := by
          rcases hfree with hm | ⟨hm, -⟩ <;> rw [hm]
          · exact State.sendPackets_one hs hser h hn 0 0
          · exact State.sendPackets_one hs hser h hn 1 0
        have hfw := h.forwards hs hsep
        rw [hsent] at hrun
        refine ⟨_, hrun, ?_, ?_, ?_, hfw.bytes, hfw.others, fun x hx _ => ?_⟩
        · exact full_iff_dvd hn hone ▸ hfw.batched_rest now _
        · rw [if_pos hone, Nat.min_eq_left hone]
          exact hfw.here
        · rw [packets_one hn hone]
          exact (congrArg Endpoint.inFlight hfw.here).trans (hinv.inFlight_afterSubmit hf)
        · rw [Nat.min_eq_left hone] at hx
          exact State.readByte_sent h hx
      · obtain ⟨hm, hf1, hroom⟩ := Endpoint.free_two hf hone hroom
        obtain ⟨l, hl⟩ : ∃ l, n = i.mps + l := Nat.exists_eq_add_of_le (Nat.le_of_not_le hone)
        have hl0 : l ≠ 0 := by omega
        have hlm : l ≤ i.mps := by omega
        have h : s.Sends i.mps := ⟨harmed, by omega, rfl, hc, Nat.le_refl _, hf⟩
        have h' : (s.sent i.mps).Sends l := h.next hs hser (hl ▸ hlen) hlm hf1
        have hfw := h.forwards_two hs hsep hser hmps.ne' h'
        have howed : decide (l = i.mps) = decide (n % i.mps = 0) := by
          rw [hl, Nat.add_mod_left, full_iff_dvd hl0 hlm]
        have hep : (s.sent i.mps).ep a = i.afterSubmit i.mps := State.ep_sent_self h
        have hinv' : (i.afterSubmit i.mps).Inv .IN := hinv.submit hc hf (Nat.le_refl _)
        have hf' : (i.afterSubmit i.mps).inFlight ≠ (i.afterSubmit i.mps).K := hinv.free_afterSubmit hf hf1
        rw [hm, hl, State.sendPackets_two hs hser h hmps.ne' h' hl0 0 0] at hrun
        rw [← hl] at hfw
        refine ⟨_, hrun, ?_, ?_, ?_, hfw.bytes, hfw.others, fun x hx hx' => ?_⟩
        · exact howed ▸ hfw.batched_rest now _
        · rw [if_neg hone, Nat.min_eq_right (Nat.le_of_not_le hone), hl, Nat.add_sub_cancel_left]
          exact hfw.here
        · rw [hl, packets_two hl0 hlm]
          exact (congrArg Endpoint.inFlight hfw.here).trans
            ((hinv'.inFlight_afterSubmit hf').trans (congrArg (· + 1) (hinv.inFlight_afterSubmit hf)))
        · rw [Nat.min_eq_right (Nat.le_of_not_le hone)] at hx hx'
          have hx'' := hx'.resolve_left hone
          rw [hl, Nat.add_sub_cancel_left, ← hep] at hx''
          exact (State.readByte_sent h' hx'').trans (State.readByte_sent h hx)

end Sys2Proof.Machine
end

section
/-! PROOF. BRIDGE_POLL (O56). -/

namespace Sys2Proof.Machine

section
variable {s t u : State} {now : Word}

/-! ## The parts of the poll -/

/-- `s` after UART_POLL and the gathering of its flags (44_cdc_bridge.md R289). -/
def State.gathered (s : State) : State := s.uartPoll.gatherFlags

theorem State.gathered_rest (s : State) :
    s.gathered = { s with uart := s.gathered.uart, rx := s.gathered.rx, pin := s.gathered.pin, br := s.gathered.br } := by
  have h := s.uartPoll_rest
  unfold State.gathered
  generalize s.uartPoll = p at h
  rw [h]
  rfl

theorem State.gathered_eq (s : State) : s.gathered = { s.uartPoll.answer .OK .unit with
    uart := { s.uartPoll.uart with overrun := false, parityErr := false }
    br := { s.uartPoll.br with pending := s.uartPoll.br.pending ||| (if s.uartPoll.uart.overrun then 0x0040 else 0)
      ||| (if s.uartPoll.uart.parityErr then 0x0020 else 0) }
    reply := s.reply } := by
  have h : s.uartPoll.reply = s.reply := by rw [State.uartPoll_rest]
  rw [← h]
  rfl

theorem State.gathered_config (s : State) : s.gathered.usb.config = s.usb.config := by
  rw [State.gathered_rest]

theorem State.gathered_changes {i : Instr} (s : State) : Changes i s s.gathered :=
  s.uartPoll_changes.trans (State.gatherFlags_changes _)

theorem exec_bridgePoll (h : s.bridgePoll now = .ok t) :
    exec (.bridgePoll now) s = .next { t with reply := .result .OK .unit } := by
  have hx : exec (.bridgePoll now) s = s.conclude ((s.bridgePoll now).map (·.answer .OK .unit)) := rfl
  rw [hx, h]
  rfl

theorem State.bridgePoll_unconfigured (h : s.usb.config = 0) : s.bridgePoll now = .ok s.gathered :=
  State.bridgePoll_eq_ok.2 (.inl ⟨s.gathered_config.trans h, rfl⟩)

theorem State.bridgePoll_configured {v : State} (h : s.usb.config ≠ 0) (hu : s.gathered.updatePause = .ok u)
    (hv : u.notify = .ok v) (ht : v.rxToUsb now = .ok t) : s.bridgePoll now = .ok t :=
  State.bridgePoll_eq_ok.2 (.inr ⟨s.gathered_config.symm ▸ h, u, v, hu, hv, ht⟩)

theorem State.bridgePoll_notify_error {x : Stop} (h : s.usb.config ≠ 0) (hu : s.gathered.updatePause = .ok u)
    (hv : u.notify = .error x) : s.bridgePoll now = .error x := by
  have hb : s.bridgePoll now = s.gathered.updatePause.bind fun s2 => s2.notify.bind fun s3 => s3.rxToUsb now :=
    if_neg (s.gathered_config.symm ▸ h)
  rw [hb, hu, Except.bind, hv]
  rfl

/-! ## What each part leaves -/

/-- The pause is brought up to date at the bulk OUT endpoint alone (R288). -/
structure State.PauseUpdated (s t : State) : Prop where
  runs : s.updatePause = .ok t
  rest : t = { s with epOut := t.epOut }
  others : ∀ a, a ≠ Config.epBulkOut → t.ep a = s.ep a
  idle : (s.ep Config.epBulkOut).cfg = false ∨
    (s.ep Config.epBulkOut).paused = decide (s.txrb.space < 2 * (s.ep Config.epBulkOut).mps) → t = s
  synced : (s.ep Config.epBulkOut).cfg = true →
    ({ s.ep Config.epBulkOut with paused := decide (s.txrb.space < 2 * (s.ep Config.epBulkOut).mps) } : Endpoint).Synced
      (t.ep Config.epBulkOut)

theorem State.EndpointInv.pauseUpdated (hs : s.EndpointInv) : ∃ t, s.PauseUpdated t := by
  have hrun := hs.updatePause
  by_cases hc : (s.ep Config.epBulkOut).cfg = true
  · rw [if_pos hc] at hrun
    refine ⟨_, hrun, State.setEp_frame_out _ _ rfl, fun a ha => State.ep_setEp_other _ _ ha, fun h => ?_, fun _ => ?_⟩
    · rw [(hs.eps _).coupled_eq_self (h.resolve_left (by simp [hc]))]
      exact State.setEp_ep _ _
    · rw [State.ep_setEp_self _ _ (by decide)]
      exact Endpoint.coupled_synced _ _
  · rw [if_neg hc] at hrun
    exact ⟨s, hrun, rfl, fun _ _ => rfl, fun _ => rfl, fun h => absurd h hc⟩

/-- A notification that can be sent when due completes, and writes at most its 10 bytes in an empty slot (R291). -/
theorem State.notify_completes (hs : s.EndpointInv) (hsep : s.SlotsDisjoint)
    (h : ¬ s.NotifyDue ∨ (s.ep Config.epIntIn).cfg = true ∧ 10 ≤ (s.ep Config.epIntIn).mps) :
    ∃ t, s.notify = .ok t ∧ t = { s with pma := t.pma, epIn := t.epIn, br := t.br } ∧
      (∀ b, b ≠ Config.epIntIn → t.ep b = s.ep b) ∧
      ∀ x, (((s.ep Config.epIntIn).slot (s.ep Config.epIntIn).swIdx).state = .EMPTY →
          x < ((s.ep Config.epIntIn).slot (s.ep Config.epIntIn).swIdx).pma ∨
            ((s.ep Config.epIntIn).slot (s.ep Config.epIntIn).swIdx).pma + 10 ≤ x) →
        t.readByte .pma x = s.readByte .pma x := by
  obtain ⟨hidle, -, -, hbusy, hsend⟩ := Sys2Proof.Machine.notify s hs hsep
  by_cases hdue : s.NotifyDue
  · obtain ⟨hc, hm⟩ := h.resolve_left (not_not.2 hdue)
    by_cases hf : (s.ep Config.epIntIn).inFlight = (s.ep Config.epIntIn).K
    · exact ⟨s, hbusy hdue hc hm hf, rfl, fun _ _ => rfl, fun _ _ => rfl⟩
    · obtain ⟨t, hrun, hrest, hothers, -, -, hframe⟩ := hsend hdue hc hm hf
      have hinv : (s.ep Config.epIntIn).Inv .IN := hs.eps Config.epIntIn
      refine ⟨t, hrun, ?_, fun b hb => (hothers b hb).1, fun x hx => hframe x (hx (hinv.next_state hf))⟩
      rw [hrest]
  · exact ⟨s, hidle hdue, rfl, fun _ _ => rfl, fun _ _ => rfl⟩

/-- Address `x` lies in no empty slot of `e`. -/
def Endpoint.Spares (e : Endpoint) (x : Nat) : Prop :=
  ∀ j, e.hasSlot j → (e.slot j).state = .EMPTY → x < (e.slot j).pma ∨ (e.slot j).pma + e.mps ≤ x

/-- An address outside the empty slots is outside a packet in the slot software writes next. -/
theorem Endpoint.Spares.next {e : Endpoint} {x n : Nat} (h : e.Spares x) (he : e.Inv .IN) (hf : e.inFlight ≠ e.K)
    (hn : n ≤ e.mps) : x < (e.slot e.swIdx).pma ∨ (e.slot e.swIdx).pma + n ≤ x :=
  (h _ (e.hasSlot_wrap _) (he.next_state hf)).imp_right fun hx => (Nat.add_le_add_left hn _).trans hx

/-- A submitted packet leaves the other slots as they are. -/
theorem Endpoint.Spares.afterSubmit {e : Endpoint} {x n : Nat} (h : e.Spares x) : (e.afterSubmit n).Spares x := by
  have hlay := e.afterSubmit_sameLayout n
  intro j hj hst
  have hne : j ≠ e.swIdx := by
    rintro rfl
    rw [e.slot_afterSubmit_self] at hst
    cases hst
  rw [Endpoint.slot_afterSubmit_other hne] at hst ⊢
  rw [hlay.mps]
  exact h j (hlay.hasSlot.1 hj) hst

/-- Sending to the host completes, and writes in empty slots of the bulk IN endpoint at most (R293). -/
theorem State.rxToUsb_completes (hs : s.EndpointInv) (hsep : s.SlotsDisjoint) (hser : s.SerialInv) (now : Word) :
    ∃ t, s.rxToUsb now = .ok t ∧ t = { s with rx := t.rx, pma := t.pma, epIn := t.epIn, br := t.br } ∧
      (∀ b, b ≠ Config.epBulkIn → t.ep b = s.ep b) ∧
      ∀ x, (s.ep Config.epBulkIn).Spares x → t.readByte .pma x = s.readByte .pma x := by
  obtain ⟨hidle, hfull, howed, hbatch⟩ := Sys2Proof.Machine.rxToUsb s now hs hsep hser
  have hinv : (s.ep Config.epBulkIn).Inv .IN := hs.eps Config.epBulkIn
  cases hc : (s.ep Config.epBulkIn).cfg with
  | false => exact ⟨s, hidle hc, rfl, fun _ _ => rfl, fun _ _ => rfl⟩
  | true =>
    by_cases hf : (s.ep Config.epBulkIn).inFlight = (s.ep Config.epBulkIn).K
    · exact ⟨s, hfull hc hf, rfl, fun _ _ => rfl, fun _ _ => rfl⟩
    cases hz : s.br.zlpNeeded with
    | true =>
      obtain ⟨t, hrun, hrest, -, -, hothers⟩ := howed hc hf hz
      refine ⟨t, hrun, ?_, fun b hb => (hothers b hb).1, fun x _ => ?_⟩
      · rw [hrest]
      · rw [hrest]
        rfl
    | false =>
      obtain ⟨t, hrun, ht⟩ := hbatch hc hf hz
      rcases ite_prop_iff_or.1 ht with ⟨-, rfl⟩ | ⟨-, hrest, -, -, -, hothers, hframe⟩
      · exact ⟨_, hrun, rfl, fun _ _ => rfl, fun _ _ => rfl⟩
      · refine ⟨t, hrun, ?_, fun b hb => (hothers b hb).1,
          fun x hx => hframe x ?_ (or_iff_not_imp_left.2 fun hmore => ?_)⟩
        · rw [hrest]
        · exact hx.next hinv hf (Nat.min_le_right _ _)
        · obtain ⟨-, hf1, htwo⟩ := Endpoint.free_two hf hmore (Nat.min_le_right _ _)
          simp only [Endpoint.afterSubmit_eq]
          refine hx.afterSubmit.next (hinv.submit hc hf (Nat.min_le_right _ _)) (hinv.free_afterSubmit hf hf1) ?_
          rw [(Endpoint.afterSubmit_sameLayout _ _).mps]
          omega

/-- Settles O56: the UART's poll and flags, then the three parts, each from the state the one before leaves. -/
theorem bridgePoll : Obligations.BridgePoll := by
  unfold Obligations.BridgePoll
  intro s now
  refine ⟨_, exec_uartPoll s, ?_⟩
  intro g
  have hg : g = s.gathered := s.gathered_eq.symm
  rw [hg]
  refine ⟨fun h => exec_bridgePoll (State.bridgePoll_unconfigured h),
    fun s2 s3 t h h2 h3 ht => exec_bridgePoll (State.bridgePoll_configured h h2 h3 ht),
    fun s2 c h h2 h3 => faults_of_conclude rfl (State.bridgePoll_notify_error h h2 h3), fun hinv hsep hconf hdue => ?_⟩
  intro o n i
  have hrest := s.gathered_rest
  have hc : Changes .evBusReset s s.gathered := s.gathered_changes
  have hep : ∀ a, s.gathered.ep a = s.ep a := State.ep_congr (by rw [hrest]) (by rw [hrest])
  have htx : s.gathered.txrb = s.txrb := by rw [hrest]
  have hk1 := hc.keeps_endpoints hinv.endpoints
  obtain ⟨s2, h2⟩ := hk1.pauseUpdated
  have hc2 : Changes .evBusReset s s2 := hc.trans (State.updatePause_changes h2.runs)
  have hk2 := hc2.keeps_endpoints hinv.endpoints
  have hd2 := hc2.keeps_slotsDisjoint hinv.endpoints hsep
  have hep2 : ∀ a, a ≠ Config.epBulkOut → s2.ep a = s.ep a := fun a ha => (h2.others a ha).trans (hep a)
  have hn2 : s2.ep Config.epIntIn = n := hep2 _ (by decide)
  have hdue2 : ¬ s2.NotifyDue ∨ (s2.ep Config.epIntIn).cfg = true ∧ 10 ≤ (s2.ep Config.epIntIn).mps := by
    rw [hn2, h2.rest]
    exact hdue
  obtain ⟨s3, hrun3, hrest3, hothers3, hframe3⟩ := State.notify_completes hk2 hd2 hdue2
  have hc3 : Changes .evBusReset s s3 := hc2.trans (State.notify_changes hrun3)
  have hk3 := hc3.keeps_endpoints hinv.endpoints
  have hd3 := hc3.keeps_slotsDisjoint hinv.endpoints hsep
  obtain ⟨t, hrun, hrestt, hotherst, hframet⟩ :=
    State.rxToUsb_completes hk3 hd3 (hc3.keeps_serial hinv.serial) now
  have hi3 : s3.ep Config.epBulkIn = i := (hothers3 _ (by decide)).trans (hep2 _ (by decide))
  refine ⟨s2, s3, t, exec_bridgePoll (State.bridgePoll_configured hconf h2.runs hrun3 hrun), h2.runs, hrun3, hrun,
    ⟨hk2, hd2, hc2.keeps_serial hinv.serial⟩, ⟨hk3, hd3, hc3.keeps_serial hinv.serial⟩, h2.rest, hep2, fun h => ?_,
    fun h => ?_, ?_, fun a ho hi hn => ?_, fun x hxn hxi => ?_⟩
  · refine h2.idle ?_
    rw [hep, htx]
    exact h
  · have hsync := h2.synced
    rw [hep, htx] at hsync
    exact hsync h
  · calc t = { s3 with rx := t.rx, pma := t.pma, epIn := t.epIn, br := t.br } := hrestt
      _ = { s2 with rx := t.rx, pma := t.pma, epIn := t.epIn, br := t.br } := by rw [hrest3]
      _ = { s.gathered with
            rx := t.rx, pma := t.pma, epOut := s2.epOut, epIn := t.epIn, br := t.br } := by rw [h2.rest]
      _ = { s with uart := s.gathered.uart, rx := t.rx, pin := s.gathered.pin, pma := t.pma, epOut := s2.epOut,
                   epIn := t.epIn, br := t.br } := by rw [hrest]
  · exact (hotherst a hi).trans ((hothers3 a hn).trans (hep2 a ho))
  · have hpma : s2.readByte .pma x = s.readByte .pma x := by
      rw [h2.rest, hrest]
      rfl
    rw [hi3] at hframet
    rw [hn2] at hframe3
    exact (hframet x hxi).trans ((hframe3 x hxn).trans hpma)

end
end Sys2Proof.Machine
end

section
/-! SUPPORT. The operations themselves write neither mark: a fault or a refusal is recorded only where a step concludes
(60_exceptions.md R325, R327). -/

namespace Sys2Proof.Machine

/-- `t` has the marks of `s` (10_state.md R56). -/
structure MarksKept (s t : State) : Prop where
  fault : t.fault = s.fault
  refused : t.refused = s.refused

section
variable {s t u : State}

theorem MarksKept.refl (s : State) : MarksKept s s := ⟨rfl, rfl⟩

theorem MarksKept.trans (h : MarksKept s t) (h' : MarksKept t u) : MarksKept s u :=
  ⟨h'.fault.trans h.fault, h'.refused.trans h.refused⟩

/-! ## The UART's operations -/

theorem State.uartConfigure_marksKept (s : State) (p : List Byte) : MarksKept s (s.uartConfigure p).1 := by
  rcases s.uartConfigure_cases p with ⟨c, -, -, h⟩ | ⟨-, h⟩ <;> rw [h] <;> exact ⟨rfl, rfl⟩

theorem State.abortChunk_marksKept (h : s.abortChunk = .ok t) : MarksKept s t := by
  rcases State.abortChunk_eq_ok.1 h with ⟨-, rfl⟩ | ⟨-, -, rfl⟩
  · exact .refl _
  · exact ⟨rfl, rfl⟩

theorem State.uartEnable_marksKept (h : s.uartEnable = .ok t) : MarksKept s t := by
  obtain ⟨u, hu, rfl⟩ := except_map_eq_ok.1 h
  exact (State.abortChunk_marksKept hu).trans ⟨rfl, rfl⟩

theorem State.busReset_marksKept (h : s.busReset = .ok t) : MarksKept s t := by
  obtain ⟨u, hu, rfl⟩ := State.busReset_eq_ok.1 h
  exact (State.abortChunk_marksKept hu).trans ⟨rfl, rfl⟩

theorem State.uartTransmit_marksKept (s : State) (data : List Byte) : MarksKept s (s.uartTransmit data).1 := by
  rw [State.uartTransmit_fst]
  exact ⟨rfl, rfl⟩

theorem State.uartPoll_marksKept (s : State) : MarksKept s s.uartPoll := by
  rw [State.uartPoll_rest]
  exact ⟨rfl, rfl⟩

theorem State.uartCopyRx_marksKept (s : State) (n : Nat) : MarksKept s (s.uartCopyRx n).1 := by
  rw [State.uartCopyRx_fst]
  exact ⟨rfl, rfl⟩

theorem State.txDmaDone_marksKept (h : s.txDmaDone = .ok t) : MarksKept s t := by
  obtain ⟨-, rfl⟩ := State.txDmaDone_eq_ok.1 h
  rw [State.txStart_eq]
  exact ⟨rfl, rfl⟩

theorem State.rxByte_marksKept (s : State) (b : Byte) : MarksKept s (s.rxByte b) := by
  unfold State.rxByte
  split
  · exact ⟨rfl, rfl⟩
  · exact .refl s

/-! ## The endpoints' operations -/

theorem EpChange.marksKept (h : EpChange s t) : MarksKept s t := by
  obtain ⟨_, _, _, _, _, _, -, rfl⟩ := h.frame
  exact ⟨rfl, rfl⟩

theorem EpsOnly.marksKept (h : EpsOnly s t) : MarksKept s t := by
  rw [h]
  exact ⟨rfl, rfl⟩

/-- A pause, an unpause or a halt command changes its endpoint. -/
theorem State.syncOrDefer_marksKept {a : EpAddr} {r : Except Stop Endpoint} {f : Endpoint → Endpoint}
    (h : (r.map fun e => s.syncOrDefer a (f e)) = .ok t) : MarksKept s t := by
  obtain ⟨e, -, rfl⟩ := except_map_eq_ok.1 h
  rw [State.syncOrDefer_eq]
  exact (EpsOnly.setEp s a _).marksKept

theorem State.usbIrq_marksKept {a : EpAddr} (h : s.usbIrq a = .ok t) : MarksKept s t := by
  rcases State.usbIrq_eq_ok h with h | ⟨b, h⟩
  · exact h.marksKept
  · exact (s.uartTransmit_marksKept b).trans h.marksKept

/-! ## The bridge -/

theorem State.registerFilter_marksKept {f : Filter} (h : s.registerFilter f = .ok t) : MarksKept s t := by
  obtain ⟨-, rfl⟩ := State.registerFilter_eq_ok.1 h
  exact ⟨rfl, rfl⟩

theorem State.bridgeInit_marksKept (h : s.bridgeInit = .ok t) : MarksKept s t := by
  obtain ⟨u, hu, rfl⟩ := except_map_eq_ok.1 h
  exact (State.registerFilter_marksKept hu).trans ⟨rfl, rfl⟩

theorem State.notify_marksKept (h : s.notify = .ok t) : MarksKept s t := by
  rcases State.notify_eq_ok h with rfl | ⟨-, u, hu, rfl⟩
  · exact .refl _
  · exact (EpChange.transmit hu).marksKept.trans ⟨rfl, rfl⟩

theorem State.rxToUsb_marksKept {now : Word} (h : s.rxToUsb now = .ok t) : MarksKept s t := by
  rcases State.rxToUsb_cases h with rfl | ⟨u, c, hu, rfl⟩ | ⟨mps, n, left, u, k, hu, rfl⟩
  · exact .refl _
  · exact (EpChange.transmit hu).marksKept.trans ⟨rfl, rfl⟩
  · rw [State.sendPackets_rest mps n hu]
    exact ⟨rfl, rfl⟩

theorem State.bridgePoll_marksKept {now : Word} (h : s.bridgePoll now = .ok t) : MarksKept s t := by
  have hpoll : MarksKept s s.uartPoll.gatherFlags := s.uartPoll_marksKept.trans ⟨rfl, rfl⟩
  rcases State.bridgePoll_eq_ok.1 h with ⟨-, rfl⟩ | ⟨-, u, v, hu, hv, ht⟩
  · exact hpoll
  · exact hpoll.trans ((EpsOnly.updatePause hu).marksKept.trans
      ((State.notify_marksKept hv).trans (State.rxToUsb_marksKept ht)))

/-! ## Control transfers -/

theorem State.cdc_marksKept (s : State) (req : Request) (data : List Byte) : MarksKept s (s.cdc req data).1 := by
  rcases s.cdc_cases req data with h | h | h | h | ⟨c, -, -, -, h⟩ <;> rw [h] <;> exact ⟨rfl, rfl⟩

theorem State.setConfig_marksKept (h : s.setConfig = .ok t) : MarksKept s t := by
  obtain ⟨s1, s2, s3, s4, h1, h2, h3, h4, rfl⟩ := State.setConfig_eq_ok.1 h
  exact (EpChange.setUp h1).marksKept.trans ((EpChange.setUp h2).marksKept.trans
    ((EpChange.setUp h3).marksKept.trans ((State.uartEnable_marksKept h4).trans ⟨rfl, rfl⟩)))

theorem State.standard_marksKept {req : Request} {r : HandlerResult} (h : s.standard req = .ok (t, r)) :
    MarksKept s t := by
  rcases State.standard_eq_ok h with rfl | ⟨-, set, hf⟩ | ⟨-, -, -, -, -, rfl⟩ | ⟨-, -, hc⟩
  · exact .refl _
  · rcases State.epFeature_eq_ok hf with ⟨rfl, -⟩ | ⟨-, a, ha, -, rfl⟩
    · exact .refl _
    · exact (EpChange.halt a set ha).marksKept
  · exact ⟨rfl, rfl⟩
  · rcases State.setConfiguration_eq_ok hc with ⟨-, -, rfl, -⟩ | ⟨-, -, rfl⟩ | ⟨-, -, hset⟩
    · exact .refl _
    · exact ⟨rfl, rfl⟩
    · have hm := State.setConfig_marksKept hset
      exact ⟨hm.fault, hm.refused⟩

theorem State.serveRequest_marksKept {data : List Byte} (h : s.serveRequest data = .ok t) : MarksKept s t := by
  obtain ⟨⟨u, r⟩, hu, rfl⟩ := except_map_eq_ok.1 h
  have hdispatch : MarksKept s u := by
    rw [State.dispatchRequest_eq] at hu
    split at hu
    · have hcdc := s.cdc_marksKept s.request data
      rwa [Except.ok.inj hu] at hcdc
    · exact State.standard_marksKept hu
  rw [State.completeRequest_rest]
  exact hdispatch.trans ⟨rfl, rfl⟩

theorem State.setupPacket_marksKept {p : List Byte} (h : s.setupPacket p = .ok t) : MarksKept s t := by
  rcases State.setupPacket_eq_ok h with ⟨-, -, rfl⟩ | ⟨-, -, -, rfl⟩ | ⟨-, hs⟩
  · exact ⟨rfl, rfl⟩
  · exact ⟨rfl, rfl⟩
  · have hm := State.serveRequest_marksKept hs
    exact ⟨hm.fault, hm.refused⟩

theorem State.ctrlOutData_marksKept {d : List Byte} (h : s.ctrlOutData d = .ok t) : MarksKept s t := by
  rcases State.ctrlOutData_eq_ok h with ⟨-, rfl⟩ | ⟨-, -, ⟨-, hs⟩ | ⟨-, -, rfl⟩ | ⟨-, -, rfl⟩⟩
  · exact ⟨rfl, rfl⟩
  · have hm := State.serveRequest_marksKept hs
    exact ⟨hm.fault, hm.refused⟩
  · exact ⟨rfl, rfl⟩
  · exact ⟨rfl, rfl⟩

theorem State.ctrlOut_marksKept {d : List Byte} (h : s.ctrlOut d = .ok t) : MarksKept s t := by
  unfold State.ctrlOut at h
  split at h
  case h_1 => exact State.ctrlOutData_marksKept h
  case h_2 => exact State.ctrlOutData_marksKept h
  all_goals
    cases h
    exact ⟨rfl, rfl⟩

theorem State.ctrlInDone_marksKept (s : State) : MarksKept s s.ctrlInDone := by
  rw [State.ctrlInDone_frame]
  exact ⟨rfl, rfl⟩

end
end Sys2Proof.Machine
end

section
/-! SUPPORT. The work of a host, DMA or pin event is never a misuse of the block (60_exceptions.md R328). -/

namespace Sys2Proof.Machine

/-- The operation does not stop as the firmware's misuse (60_exceptions.md R325). -/
def NoMisuse {α : Type} (r : Except Stop α) : Prop := ∀ c, r ≠ .error (.misuse c)

section
variable {α β : Type} {r : Except Stop α}

theorem NoMisuse.ok (v : α) : NoMisuse (.ok v) := fun _ h => nomatch h

theorem NoMisuse.of_eq_ok {v : α} (h : r = .ok v) : NoMisuse r := h ▸ .ok v

theorem NoMisuse.map (h : NoMisuse r) (f : α → β) : NoMisuse (r.map f) := fun c hr => h c (except_map_eq_error.1 hr)

/-- An address outside its space is not the firmware's misuse (20_memory.md R60). -/
theorem NoMisuse.of_checkSpace {sp : Space} {a n : Nat} {x : Stop} (h : checkSpace sp a n = .error x) :
    NoMisuse (.error x : Except Stop β) := by
  obtain ⟨-, rfl⟩ := checkSpace_eq_error.1 h
  exact fun _ h => nomatch h

end

section
variable {a : EpAddr}

theorem State.txDmaDone_noMisuse (s : State) : NoMisuse s.txDmaDone := by
  unfold State.txDmaDone
  split
  · rename_i hx
    exact .of_checkSpace hx
  · exact .ok _

theorem State.busReset_noMisuse (s : State) : NoMisuse s.busReset := by
  refine NoMisuse.map (fun c hx => ?_) _
  obtain ⟨hout, -⟩ := State.abortChunk_eq_error hx
  cases hout

theorem State.epInDone_noMisuse (s : State) (a : EpAddr) : NoMisuse (s.epInDone a) := by
  unfold State.epInDone
  simp only
  split
  · rename_i hx
    exact .of_checkSpace hx
  · exact .ok _

theorem State.epOutPacket_noMisuse (s : State) (a : EpAddr) (data : List Byte) : NoMisuse (s.epOutPacket a data) := by
  unfold State.epOutPacket
  simp only
  split
  · rename_i hx
    exact .of_checkSpace hx
  · exact .ok _

/-- A callback reads its own endpoint's packet, which fits its buffer (44_cdc_bridge.md R287). -/
theorem State.EndpointInv.usbIrq_noMisuse {s : State} (hs : s.EndpointInv) (hc : (s.ep a).cfg = true) :
    NoMisuse (s.usbIrq a) := by
  by_cases hp : a = Config.epBulkOut ∧ ((s.ep a).slot (s.ep a).swIdx).state = .FULL
  · obtain ⟨rfl, hf⟩ := hp
    exact .of_eq_ok (hs.usbIrq_bulkOut rfl hc hf rfl)
  · exact .of_eq_ok (hs.usbIrq_idle hc (not_and_or.1 hp))

theorem State.serveRequest_noMisuse (s : State) (data : List Byte) : NoMisuse (s.serveRequest data) :=
  NoMisuse.map (s.dispatchRequest_definitive s.request data).ne_misuse _

theorem State.setupPacket_noMisuse (s : State) (p : List Byte) : NoMisuse (s.setupPacket p) := by
  unfold State.setupPacket
  simp only
  split
  · split
    · exact .ok _
    · exact .ok _
  · exact State.serveRequest_noMisuse _ _

theorem State.ctrlOutData_noMisuse (s : State) (d : List Byte) : NoMisuse (s.ctrlOutData d) := by
  unfold State.ctrlOutData
  split
  · exact .ok _
  split
  · rename_i hx
    exact .of_checkSpace hx
  simp only
  split
  · exact State.serveRequest_noMisuse _ _
  split
  · exact .ok _
  · exact .ok _

theorem State.ctrlOut_noMisuse (s : State) (d : List Byte) : NoMisuse (s.ctrlOut d) := by
  unfold State.ctrlOut
  split
  case h_1 => exact s.ctrlOutData_noMisuse d
  case h_2 => exact s.ctrlOutData_noMisuse d
  all_goals exact .ok _

end
end Sys2Proof.Machine
end

section
/-! PROOF. How a step ends: served, not enabled, refused or faulted (O4, O5, O6, O8). -/

namespace Sys2Proof.Machine

/-! ## The four ends of an operation (60_exceptions.md R325-R328) -/

/-- The ways in which `i`, executed in `s`, can end: only an event waits, and between steps only software faults. -/
inductive Ends (i : Instr) (s : State) : State → Prop where
  | served {t : State} (hm : MarksKept s t) (hq : t.reply ≠ .notEnabled) : Ends i s t
  | waits (ha : agentOf i ≠ .SW) : Ends i s s.waits
  | refused (op : Byte) : Ends i s (s.refuse op)
  | faulted (c : FaultCode) (ha : s.EndpointInv → agentOf i = .SW) : Ends i s (s.raise c)

section
variable {i : Instr} {s t u : State}

theorem MarksKept.answers (h : MarksKept s u) (c : ResultCode) (v : Value) : Ends i s (u.answer c v) :=
  .served ⟨h.fault, h.refused⟩ nofun

theorem MarksKept.taken (h : MarksKept s u) : Ends i s u.taken := .served ⟨h.fault, h.refused⟩ nofun

/-- A command that is refused unless its operand is legal. -/
theorem Ends.of_refusedUnless {b : Bool} {op : Byte} (h : (if b then .next u else .next (s.refuse op) :
    Host.Outcome State Fault Refusal) = .next t) (hu : Ends i s u) : Ends i s t := by
  split at h <;> cases h
  · exact hu
  · exact .refused op

/-- An endpoint command is refused, or acts on the endpoint its byte names. -/
theorem Ends.of_withEp {op addr : Byte} {f : EpAddr → Host.Outcome State Fault Refusal}
    (h : s.withEp op addr f = .next t) (hf : ∀ a, f a = .next t → Ends i s t) : Ends i s t := by
  unfold State.withEp at h
  split at h
  · exact hf _ h
  · cases h; exact .refused op

/-- A concluded operation ends as its work does, or with a fault mark where its work is a misuse. -/
theorem Ends.of_conclude {α : Type} {r : Except Stop α} {f : α → State} (h : s.conclude (r.map f) = .next t)
    (ha : ∀ c, r = .error (.misuse c) → s.EndpointInv → agentOf i = .SW) (hr : ∀ v, r = .ok v → Ends i s (f v)) :
    Ends i s t := by
  rcases State.conclude_eq_next.1 h with h | ⟨c, hc, rfl⟩
  · obtain ⟨v, hv, rfl⟩ := except_map_eq_ok.1 h
    exact hr v hv
  · exact .faulted c (ha c (except_map_eq_error.1 hc))

/-- A software command that concludes its work. -/
theorem Ends.of_command {α : Type} {r : Except Stop α} {f : α → State} (ha : agentOf i = .SW)
    (h : s.conclude (r.map f) = .next t) (hr : ∀ v, r = .ok v → Ends i s (f v)) : Ends i s t :=
  .of_conclude h (fun _ _ _ => ha) hr

/-- A software command that concludes its work on the endpoint its byte names. -/
theorem Ends.of_epCommand {α : Type} {op addr : Byte} {r : EpAddr → Except Stop α} {f : α → State}
    (ha : agentOf i = .SW) (h : s.withEp op addr (fun a => s.conclude ((r a).map f)) = .next t)
    (hr : ∀ a v, r a = .ok v → Ends i s (f v)) : Ends i s t :=
  .of_withEp h fun a h => .of_command ha h (hr a)

/-- An event whose work is no misuse. -/
theorem Ends.of_event {r : Except Stop State} (h : s.conclude (r.map State.taken) = .next t)
    (hn : s.EndpointInv → NoMisuse r) (hr : ∀ v, r = .ok v → MarksKept s v) : Ends i s t :=
  .of_conclude h (fun c hc hs => absurd hc (hn hs c)) fun v hv => (hr v hv).taken

/-- An event that waits unless it is enabled. -/
theorem Ends.of_enabled {b : Bool} {o : Host.Outcome State Fault Refusal} (ha : agentOf i ≠ .SW)
    (h : (if b then o else .next s.waits) = .next t) (ho : b = true → o = .next t → Ends i s t) : Ends i s t := by
  cases b
  · cases h; exact .waits ha
  · exact ho rfl h

theorem exec_ends (h : exec i s = .next t) : Ends i s t := by
  have hkept : MarksKept s s := .refl s
  cases i with
  | rbClear ring => exact .of_refusedUnless h (.served ⟨rfl, rfl⟩ nofun)
  | rbEnqueue ring data => exact .of_refusedUnless h (.served ⟨rfl, rfl⟩ nofun)
  | rbDequeue ring limit => exact .of_refusedUnless h (.served ⟨rfl, rfl⟩ nofun)
  | rbAvailableSpace ring => exact .of_refusedUnless h (hkept.answers _ _)
  | rbOccupiedLen ring => exact .of_refusedUnless h (hkept.answers _ _)
  | rbContigLen ring => exact .of_refusedUnless h (hkept.answers _ _)
  | uartConfigure coding => cases h; exact (s.uartConfigure_marksKept coding).answers _ _
  | uartEnable => exact .of_command rfl h fun v hv => (State.uartEnable_marksKept hv).answers _ _
  | uartTransmit data => cases h; exact (s.uartTransmit_marksKept data).answers _ _
  | uartPoll => cases h; exact s.uartPoll_marksKept.answers _ _
  | uartCopyRx limit => cases h; exact (s.uartCopyRx_marksKept limit.toNat).answers _ _
  | uartHasOverrun => cases h; exact .served ⟨rfl, rfl⟩ nofun
  | uartGetDsr => cases h; exact hkept.answers _ _
  | uartGetDcd => cases h; exact hkept.answers _ _
  | uartSetDtr arg => exact .of_refusedUnless h (.served ⟨rfl, rfl⟩ nofun)
  | uartTxSpace => cases h; exact hkept.answers _ _
  | uartRxLen => cases h; exact hkept.answers _ _
  | uartGetCoding => cases h; exact hkept.answers _ _
  | evUartTxDmaDone =>
    exact .of_enabled nofun h fun _ h =>
      .of_event h (fun _ => s.txDmaDone_noMisuse) fun v hv => State.txDmaDone_marksKept hv
  | evUartRxByte arg => exact .of_refusedUnless h (s.rxByte_marksKept _).taken
  | evUartParityError => cases h; exact .served ⟨rfl, rfl⟩ nofun
  | evPinLevels arg => exact .of_refusedUnless h (.served ⟨rfl, rfl⟩ nofun)
  | epSetup addr size type =>
    refine .of_withEp h fun a h => ?_
    split at h
    · exact .of_command rfl h fun v hv => (EpChange.setUp hv).marksKept.answers _ _
    · cases h; exact .refused 0x30
  | epTransmitPacket addr data =>
    exact .of_epCommand rfl h fun a v hv => (EpChange.transmit hv).marksKept.answers _ _
  | epWriteAvail addr => exact .of_epCommand rfl h fun a v hv => hkept.answers _ _
  | epReadPacket addr limit =>
    refine .of_epCommand rfl h fun a v hv => ?_
    have hread : MarksKept s v.1 := (EpChange.read hv).marksKept
    split
    · exact hread.answers _ _
    · exact hread.answers _ _
  | epPause addr => exact .of_epCommand rfl h fun a v hv => (State.syncOrDefer_marksKept hv).answers _ _
  | epUnpause addr => exact .of_epCommand rfl h fun a v hv => (State.syncOrDefer_marksKept hv).answers _ _
  | epSetHalt addr => exact .of_epCommand rfl h fun a v hv => (State.syncOrDefer_marksKept hv).answers _ _
  | epClearHalt addr => exact .of_epCommand rfl h fun a v hv => (State.syncOrDefer_marksKept hv).answers _ _
  | evBusReset => exact .of_event h (fun _ => s.busReset_noMisuse) fun v hv => State.busReset_marksKept hv
  | evEpInDone addr =>
    exact .of_withEp h fun a h => .of_enabled nofun h fun he h =>
      .of_event h (fun _ => s.epInDone_noMisuse a) fun v hv => (EpChange.inDone he hv).marksKept
  | evEpOut addr data =>
    exact .of_withEp h fun a h => .of_enabled nofun h fun he h =>
      .of_event h (fun _ => s.epOutPacket_noMisuse a data) fun v hv => (EpChange.outPacket he hv).marksKept
  | epDeconfigureAll => cases h; exact .served ⟨rfl, rfl⟩ nofun
  | epReadStatus sel =>
    simp only [exec, execEpReadStatus] at h
    split at h <;> cases h
    · exact hkept.answers _ _
    · exact .refused 0x3C
  | evUsbIrq addr =>
    exact .of_withEp h fun a h => .of_enabled nofun h fun he h =>
      .of_event h (fun hs => hs.usbIrq_noMisuse (Endpoint.irqEnabled_iff.1 he).1) fun v hv => State.usbIrq_marksKept hv
  | evSetup packet =>
    exact .of_event h (fun _ => s.setupPacket_noMisuse packet) fun v hv => State.setupPacket_marksKept hv
  | evCtrlOut data =>
    exact .of_enabled nofun h fun _ h =>
      .of_event h (fun _ => s.ctrlOut_noMisuse data) fun v hv => State.ctrlOut_marksKept hv
  | evCtrlInDone =>
    rcases evCtrlInDone_cases h with ⟨-, rfl⟩ | ⟨-, rfl⟩
    · exact s.ctrlInDone_marksKept.taken
    · exact .waits nofun
  | ctrlRegisterFilter handler value mask =>
    simp only [exec, execCtrlRegisterFilter] at h
    split at h
    · exact .of_command rfl h fun v hv => (State.registerFilter_marksKept hv).answers _ _
    · cases h; exact .refused 0x43
  | ctrlReadState => cases h; exact hkept.answers _ _
  | bridgePoll now => exact .of_command rfl h fun v hv => (State.bridgePoll_marksKept hv).answers _ _
  | bridgeInit => exact .of_command rfl h fun v hv => (State.bridgeInit_marksKept hv).answers _ _

end

/-! ## The obligations -/

/-- Settles O8: an event steps inside the storage spaces (O7), and its work is no misuse, so it does not end faulted. -/
theorem eventsNeverFault : Obligations.EventsNeverFault := by
  unfold Obligations.EventsNeverFault
  intro i s hs ha
  obtain ⟨t, ht⟩ := everyOperationSteps i s hs
  refine ⟨t, ht, ?_⟩
  cases exec_ends ht with
  | served hm hq => exact hm.fault
  | waits => rfl
  | refused op => rfl
  | faulted c hsw => exact absurd (hsw hs.endpoints) ha

/-- Settles O5: an operation that is served or waits keeps both marks; a refusal or a fault is its mark alone. -/
theorem marksChangeAlone : Obligations.MarksChangeAlone := by
  unfold Obligations.MarksChangeAlone
  intro i s t h
  cases exec_ends h with
  | served hm hq => exact .inl ⟨hm.fault, hm.refused⟩
  | waits => exact .inl ⟨rfl, rfl⟩
  | refused op => exact .inr (.inr ⟨op, rfl⟩)
  | faulted c hsw => exact .inr (.inl ⟨c, rfl⟩)

/-- Settles O6: of the ends of an operation, only an event's waiting replies that it was not enabled. -/
theorem softwareNeverWaits : Obligations.SoftwareNeverWaits := by
  unfold Obligations.SoftwareNeverWaits
  intro i s t hsw h
  cases exec_ends h with
  | served hm hq => exact hq
  | waits ha => exact absurd hsw ha
  | refused op => exact nofun
  | faulted c => exact nofun

theorem step_of_decode {s : State} {i : Instr} {rest : List Byte} (hf : s.fault = none)
    (hd : decode s.inbox = .instr i rest) : step s = exec i (s.consume rest) := by
  have hfetch : s.fetch = .instr i rest := hd
  simp only [step, hf, hfetch]

theorem step_of_fault {s : State} {c : FaultCode} (hf : s.fault = some c) : step s = .fault (.quiescent c) := by
  simp only [step, hf]

/-- Settles O4: a step looks at the fault mark first, then at what the stream decodes to. -/
theorem stepRunsDecoded : Obligations.StepRunsDecoded := by
  unfold Obligations.StepRunsDecoded
  exact ⟨fun s i rest => step_of_decode, fun s c => step_of_fault⟩

end Sys2Proof.Machine
end

section
/-! PROOF. What the host sees at an endpoint, and which of its events are enabled (O60). -/

namespace Sys2Proof.Machine

/-! ## Which events wait (60_exceptions.md R326) -/

section
variable {i : Instr} {s : State}

/-- Work that is concluded ends taken or faulted; it does not wait. -/
theorem State.conclude_ne_waits (s : State) (r : Except Stop State) :
    s.conclude (r.map State.taken) ≠ .next s.waits := by
  intro h
  rcases State.conclude_eq_next.1 h with h | ⟨c, -, h⟩
  · obtain ⟨t, -, ht⟩ := except_map_eq_ok.1 h
    exact nomatch congrArg State.reply ht
  · exact nomatch congrArg State.reply h

/-- An event waits exactly when its enabling condition is false. -/
theorem not_waits_iff {p : Prop} [Decidable p] {r : Except Stop State}
    (hx : exec i s = if p then s.conclude (r.map State.taken) else .next s.waits) : ¬ Waits i s ↔ p := by
  by_cases hp : p
  · rw [if_pos hp] at hx
    exact iff_of_true (fun h => s.conclude_ne_waits r (hx.symm.trans h)) hp
  · rw [if_neg hp] at hx
    exact iff_of_false (fun h => h hx) hp

theorem not_waits_evSetup (s : State) (p : List Byte) : ¬ Waits (.evSetup p) s := s.conclude_ne_waits (s.setupPacket p)

theorem not_waits_evCtrlOut {d : List Byte} : ¬ Waits (.evCtrlOut d) s ↔ s.ctrlOutEnabled d.length = true :=
  not_waits_iff (r := s.ctrlOut d) rfl

theorem not_waits_evCtrlInDone : ¬ Waits .evCtrlInDone s ↔ s.ctrl.in0 = .LOADED :=
  not_waits_iff (r := .ok s.ctrlInDone) rfl

theorem not_waits_evEpOut {a : EpAddr} {d : List Byte} :
    ¬ Waits (.evEpOut (epAddrToByte a) d) s ↔ (s.ep a).outEnabled d.length = true :=
  not_waits_iff (r := s.epOutPacket a d) (s.withEp_toByte 0x3A a _)

theorem not_waits_evEpInDone {a : EpAddr} :
    ¬ Waits (.evEpInDone (epAddrToByte a)) s ↔ (s.ep a).inDoneEnabled = true :=
  not_waits_iff (r := s.epInDone a) (s.withEp_toByte 0x39 a _)

end

/-! ## Endpoint 0 (60_exceptions.md R324; 43_control_transfer.md R233) -/

theorem Ctrl.outHandshake_stall {c : Ctrl} : c.outHandshake = .stall ↔ c.state = .STALLED := by
  unfold Ctrl.outHandshake
  split <;> simp [*]

theorem Ctrl.outHandshake_ack {c : Ctrl} : c.outHandshake = .ack ↔ c.state ≠ .STALLED := by
  unfold Ctrl.outHandshake
  split <;> simp [*]

theorem Ctrl.inHandshake_stall {c : Ctrl} : c.inHandshake = .stall ↔ c.state = .STALLED := by
  unfold Ctrl.inHandshake
  split
  · simp [*]
  · split <;> simp [*]

theorem Ctrl.inHandshake_ack {c : Ctrl} : c.inHandshake = .ack ↔ c.state ≠ .STALLED ∧ c.in0 = .LOADED := by
  unfold Ctrl.inHandshake
  split
  · simp [*]
  · split <;> simp [*]

/-- No packet is loaded while the control machine is STALLED (R234). -/
theorem State.ControlInv.not_stalled_of_loaded {s : State} (hs : s.ControlInv) (h : s.ctrl.in0 = .LOADED) :
    s.ctrl.state ≠ .STALLED := by
  intro hst
  have hsends := hs.loaded.1 h
  rw [hst] at hsends
  cases hsends

/-! ## The other endpoints (42_endpoint_engine.md R185, R187; 10_state.md R38) -/

/-- An endpoint of hardware status `st` answers `h`, its next packet being possible when `ready`. -/
structure Answers (st : EpStat) (ready : Prop) (h : Handshake) : Prop where
  silent : h = .silent ↔ st = .DISABLED
  stall : h = .stall ↔ st = .STALL
  nak : st = .NAK → h = .nak
  ack : h = .ack ↔ st = .VALID ∧ ready

theorem Endpoint.outHandshake_answers (e : Endpoint) :
    Answers e.hwstat ((e.slot e.hwIdx).state = .FREE) e.outHandshake := by
  unfold Endpoint.outHandshake
  cases e.hwstat with
  | VALID =>
    simp only
    split <;> constructor <;> simp [*]
  | _ => constructor <;> simp

theorem Endpoint.inHandshake_answers (e : Endpoint) :
    Answers e.hwstat ((e.slot e.hwIdx).state = .LOADED) e.inHandshake := by
  unfold Endpoint.inHandshake
  cases e.hwstat with
  | VALID =>
    simp only
    split <;> constructor <;> simp [*]
  | _ => constructor <;> simp

theorem Endpoint.wantStat_disabled {e : Endpoint} (hc : e.cfg = false) : e.wantStat = .DISABLED := by
  simp [Endpoint.wantStat, hc]

theorem Endpoint.wantStat_stall_iff {e : Endpoint} (hc : e.cfg = true) : e.wantStat = .STALL ↔ e.halt = true := by
  cases hh : e.halt <;> cases hp : e.paused <;> simp [Endpoint.wantStat, hc, hh, hp]

theorem Endpoint.wantStat_nak {e : Endpoint} (hc : e.cfg = true) (hh : e.halt = false) (hp : e.paused = true) :
    e.wantStat = .NAK := by
  simp [Endpoint.wantStat, hc, hh, hp]

/-- Only a configured endpoint is VALID. -/
theorem Endpoint.Inv.cfg_of_valid {d : Dir} {e : Endpoint} (h : e.Inv d) (hv : e.hwstat = .VALID) : e.cfg = true := by
  by_contra hc
  rw [h.stat, Endpoint.wantStat_disabled (by simpa using hc)] at hv
  cases hv

section
variable {s : State} {a : EpAddr}

theorem State.handshake_out (hn : a.num.val ≠ 0) (hd : a.dir = .OUT) : s.handshake a = (s.ep a).outHandshake := by
  unfold State.handshake
  split <;> simp_all

theorem State.handshake_in (hn : a.num.val ≠ 0) (hd : a.dir = .IN) : s.handshake a = (s.ep a).inHandshake := by
  unfold State.handshake
  split <;> simp_all

/-- In either direction the hardware status decides the answer. -/
theorem State.handshake_answers (s : State) (hn : a.num.val ≠ 0) :
    ∃ ready, Answers (s.ep a).hwstat ready (s.handshake a) := by
  cases hd : a.dir with
  | OUT => exact ⟨_, State.handshake_out hn hd ▸ (s.ep a).outHandshake_answers⟩
  | IN => exact ⟨_, State.handshake_in hn hd ▸ (s.ep a).inHandshake_answers⟩

end

/-- Settles O60: the handshake is read off the control state, or off the hardware status and the next slot, and so is the
enabling condition of the event. -/
theorem handshakes : Obligations.Handshakes := by
  unfold Obligations.Handshakes
  refine ⟨fun s => ⟨Ctrl.outHandshake_stall, Ctrl.inHandshake_stall, not_waits_evSetup s⟩, fun s d hd => ?_,
    fun s hs => ?_, fun s a hs hn => ?_⟩
  · have hon : s.ctrlOutEnabled d.length = true ↔ s.ctrl.state ≠ .STALLED := by simp [State.ctrlOutEnabled, hd]
    exact Ctrl.outHandshake_ack.trans (hon.symm.trans not_waits_evCtrlOut.symm)
  · rw [not_waits_evCtrlInDone]
    exact Ctrl.inHandshake_ack.trans (and_iff_right_of_imp hs.not_stalled_of_loaded)
  · have hstat := (hs.eps a).stat
    have hcfg := (hs.eps a).cfg_of_valid
    obtain ⟨ready, hans⟩ := s.handshake_answers hn
    refine ⟨fun hc => hans.silent.2 ?_, fun hc => hans.stall.trans ?_, fun _ hc hp hh => hans.nak ?_,
      fun d hd hlen => ?_, fun hd => ?_⟩
    · rw [hstat, Endpoint.wantStat_disabled hc]
    · rw [hstat, Endpoint.wantStat_stall_iff hc]
    · rw [hstat, Endpoint.wantStat_nak hc hh hp]
    · rw [not_waits_evEpOut, Endpoint.outEnabled_iff, State.handshake_out hn hd, (Endpoint.outHandshake_answers _).ack]
      exact ⟨fun ⟨hv, hf⟩ => ⟨hcfg hv, hv, hf, hlen⟩, fun ⟨_, hv, hf, _⟩ => ⟨hv, hf⟩⟩
    · rw [not_waits_evEpInDone, Endpoint.inDoneEnabled_iff, State.handshake_in hn hd, (Endpoint.inHandshake_answers _).ack]
      exact ⟨fun ⟨hv, hl⟩ => ⟨hcfg hv, hv, hl⟩, fun ⟨_, hv, hl⟩ => ⟨hv, hl⟩⟩

end Sys2Proof.Machine
end

section
/-! PROOF. What power-on leaves, and that it has every invariant (O15, O16). -/

namespace Sys2Proof.Machine

/-! ## The reset state has nothing to deconfigure and nothing to restart (70_reset_and_hazards.md R350, R352) -/

theorem State.reset_deconfigureAll : State.reset.deconfigureAll = State.reset := rfl

theorem State.reset_busRestart : State.reset.busRestart = State.reset := rfl

/-- Every endpoint reads R36's reset column; at endpoint 0 that is the model's reading (log 15). -/
@[simp] theorem State.reset_ep (a : EpAddr) : State.reset.ep a = Endpoint.reset a.dir :=
  State.reset_deconfigureAll ▸ State.ep_deconfigureAll State.reset a

/-- A reset endpoint is single-buffered, whatever its direction (10_state.md R36). -/
theorem Endpoint.reset_K (d : Dir) : (Endpoint.reset d).K = 1 := rfl

/-! ## The parts of the invariant at reset -/

theorem Memory.good_nil (n : Nat) : Memory.Good [] n := ⟨Memory.wf_nil, rfl⟩

theorem Ring.reset_inRange {cap : Nat} (h : 0 < cap) : (Ring.reset cap).InRange := ⟨h, h⟩

theorem RxWindow.reset_inRange : RxWindow.reset.InRange where
  cap_eq := rfl
  rem_pos := by decide
  rem_le := le_rfl
  tail_lt := by decide
  lastLen_lt := by decide

theorem State.reset_storageInv : State.reset.StorageInv :=
  State.storageInv_iff.2 ⟨⟨rfl, Memory.good_nil _⟩, ⟨rfl, Memory.good_nil _⟩, ⟨rfl, Memory.good_nil _⟩,
    Memory.good_nil _, Memory.good_nil _⟩

/-- The engine is idle with an empty chunk, and its registers are those of the default coding (10_state.md R25-R28). -/
theorem State.reset_serialInv : State.reset.SerialInv where
  rb0_cap := rfl
  rb0 := Ring.reset_inRange (by decide)
  txrb_cap := rfl
  txrb := Ring.reset_inRange (by decide)
  rx := RxWindow.reset_inRange
  busy := by decide
  chunk := Nat.zero_le _
  legal := by decide
  hwm := Uart.reset_rxHwm
  effBaud := rfl

theorem State.reset_endpointInv : State.reset.EndpointInv :=
  State.reset_deconfigureAll ▸ State.reset.endpointInv_deconfigureAll

theorem State.reset_controlInv : State.reset.ControlInv :=
  State.reset_busRestart ▸ State.reset.busRestart_controlInv

theorem State.reset_bridgeInv : State.reset.BridgeInv where
  config := .inl rfl
  filters := Nat.zero_le _
  pending := BitVec.zero_and
  lastState := BitVec.zero_and

theorem State.reset_inv : State.reset.Inv where
  storage := State.reset_storageInv
  serial := State.reset_serialInv
  endpoints := State.reset_endpointInv
  control := State.reset_controlInv
  bridge := State.reset_bridgeInv

/-! ## What rests on no endpoint being configured -/

theorem State.reset_slotsDisjoint : State.reset.SlotsDisjoint :=
  State.reset_deconfigureAll ▸ State.reset.slotsDisjoint_deconfigureAll

theorem State.reset_flowRoom : State.reset.FlowRoom :=
  State.flowRoom_of_unconfigured (by rw [State.reset_ep]; rfl)

theorem State.reset_irqBound : State.reset.IrqBound := fun n => by
  rw [State.reset_ep]
  exact Nat.zero_le _

/-- Settles O15: the reset state is its own deconfiguration and its own restart, so the endpoints' and the control machine's
parts are those that an EP_DECONFIGURE_ALL and a bus reset leave; the other parts are read off the registers. -/
theorem resetInv : Obligations.ResetInv := by
  unfold Obligations.ResetInv
  exact ⟨State.reset_inv, State.reset_slotsDisjoint, State.reset_flowRoom, State.reset_irqBound⟩

/-- Settles O16: the registers are read off component by component, in the statement's order; the endpoints, which stand in
two banks that endpoint 0 is not in, through `State.reset_ep`. -/
theorem resetState : Obligations.ResetState := by
  unfold Obligations.ResetState
  refine
    ⟨rfl, rfl, rfl, -- the standalone ring
      rfl, rfl, rfl, -- the TX ring
      rfl, rfl, rfl, rfl, rfl, -- the RX window
      rfl, rfl, rfl, rfl, rfl, rfl, rfl, rfl, -- the UART's registers and flags
      rfl, rfl, -- DTR and RTS
      rfl, -- the device registers
      State.reset_ep, rfl, rfl, Endpoint.reset_K, -- the endpoints
      rfl, rfl, rfl, rfl, rfl, rfl, rfl, -- the control context
      rfl, rfl, -- the filter table and the bridge
      rfl, rfl, rfl, -- the logs
      rfl, rfl⟩ -- the marks

end Sys2Proof.Machine
end
